-- ==== Sys2Proof/Word.lean ====
section
/-! DEFINITION. The two word widths of the engine (00_scope.md rule R6: `XLEN8` = 8, `XLEN16` = `ALEN` = 16) and the
width of a pixel (60_exceptions.md rule R347: four bytes R, G, B, A). -/

namespace Sys2Proof

/-- A byte: the width of a general register and of every memory location (R20, R60). -/
abbrev Byte := BitVec 8

/-- A 16-bit value: `pc`, `sp`, a register pair, an address (R6). -/
abbrev Word := BitVec 16

/-- One pixel, the bytes R, G, B, A from the most significant byte down (R347). -/
abbrev Rgba := BitVec 32

end Sys2Proof
end

