-- ==== Sys2Proof/Syntax.lean ====
section
/-! DEFINITION. The instruction set as syntax: one constructor per row of spec/opcode_table.json (30_encoding.md rules R120,
R124, R127, R128, R135). Register, pair and condition fields are names here; their encoding numbers stand in Decode.lean. -/

namespace Sys2Proof

/-- The seven general registers an 8-bit register field can name (00_scope.md rule R8; index 6 names no register). -/
inductive Reg8 where
  | b | c | d | e | h | l | a
  deriving DecidableEq, Repr

/-- The pairs `xx[p]` (R8, R122). -/
inductive Pair where
  | bc | de | hl | sp
  deriving DecidableEq, Repr

/-- The stack group `xs[p]` of `PUSH` and `POP` (R8, R122). -/
inductive StackPair where
  | bc | de | hl | af
  deriving DecidableEq, Repr

/-- The conditions `cc` (00_scope.md rule R11). -/
inductive Cond where
  | nz | z | nc | c
  deriving DecidableEq, Repr

/-- The 121 rows of the opcode table, in the table's order. Immediates are part of the instruction. -/
inductive Instr where
  /-- `LD r,r'` (R150). -/
  | ldRR (rd rs : Reg8)
  /-- `LD r,n8` (R151). -/
  | ldRN8 (r : Reg8) (n : Byte)
  /-- `LD r,(HL)` (R152). -/
  | ldRHl (r : Reg8)
  /-- `LD (HL),r` (R153). -/
  | ldHlR (r : Reg8)
  /-- `LD (HL),n8` (R154). -/
  | ldHlN8 (n : Byte)
  /-- `LD A,(BC)` (R155). -/
  | ldABc
  /-- `LD A,(DE)` (R156). -/
  | ldADe
  /-- `LD (BC),A` (R157). -/
  | ldBcA
  /-- `LD (DE),A` (R158). -/
  | ldDeA
  /-- `LD A,(n16)` (R159). -/
  | ldAN16 (n : Word)
  /-- `LD (n16),A` (R160). -/
  | ldN16A (n : Word)
  /-- `LDH A,(C)` (R161). -/
  | ldhAC
  /-- `LDH (C),A` (R162). -/
  | ldhCA
  /-- `LDH A,(n8)` (R163). -/
  | ldhAN8 (n : Byte)
  /-- `LDH (n8),A` (R164). -/
  | ldhN8A (n : Byte)
  /-- `LD A,(HL-)` (R165). -/
  | ldAHld
  /-- `LD (HL-),A` (R166). -/
  | ldHldA
  /-- `LD A,(HL+)` (R167). -/
  | ldAHli
  /-- `LD (HL+),A` (R168). -/
  | ldHliA
  /-- `LD rr,n16` (R175). -/
  | ldRrN16 (p : Pair) (n : Word)
  /-- `LD (n16),SP` (R176). -/
  | ldN16Sp (n : Word)
  /-- `LD SP,HL` (R177). -/
  | ldSpHl
  /-- `LD HL,SP+e8` (R178). -/
  | ldHlSpE8 (e : Byte)
  /-- `PUSH rs` (R179). -/
  | pushRs (q : StackPair)
  /-- `POP rs` (R180); the operand `AF` is the row `POP AF` (WellFormed). -/
  | popRs (q : StackPair)
  /-- `POP AF` (R181). -/
  | popAf
  /-- `ADD A,r` (R193). -/
  | addAR (r : Reg8)
  /-- `ADD A,(HL)` (R194). -/
  | addAHl
  /-- `ADD A,n8` (R195). -/
  | addAN8 (n : Byte)
  /-- `ADC A,r` (R196). -/
  | adcAR (r : Reg8)
  /-- `ADC A,(HL)` (R197). -/
  | adcAHl
  /-- `ADC A,n8` (R198). -/
  | adcAN8 (n : Byte)
  /-- `SUB A,r` (R199). -/
  | subAR (r : Reg8)
  /-- `SUB A,(HL)` (R200). -/
  | subAHl
  /-- `SUB A,n8` (R201). -/
  | subAN8 (n : Byte)
  /-- `SBC A,r` (R202). -/
  | sbcAR (r : Reg8)
  /-- `SBC A,(HL)` (R203). -/
  | sbcAHl
  /-- `SBC A,n8` (R204). -/
  | sbcAN8 (n : Byte)
  /-- `AND A,r` (R205). -/
  | andAR (r : Reg8)
  /-- `AND A,(HL)` (R206). -/
  | andAHl
  /-- `AND A,n8` (R207). -/
  | andAN8 (n : Byte)
  /-- `XOR A,r` (R208). -/
  | xorAR (r : Reg8)
  /-- `XOR A,(HL)` (R209). -/
  | xorAHl
  /-- `XOR A,n8` (R210). -/
  | xorAN8 (n : Byte)
  /-- `OR A,r` (R211). -/
  | orAR (r : Reg8)
  /-- `OR A,(HL)` (R212). -/
  | orAHl
  /-- `OR A,n8` (R213). -/
  | orAN8 (n : Byte)
  /-- `CP A,r` (R214). -/
  | cpAR (r : Reg8)
  /-- `CP A,(HL)` (R215). -/
  | cpAHl
  /-- `CP A,n8` (R216). -/
  | cpAN8 (n : Byte)
  /-- `INC r` (R217). -/
  | incR (r : Reg8)
  /-- `INC (HL)` (R218). -/
  | incHl
  /-- `DEC r` (R219). -/
  | decR (r : Reg8)
  /-- `DEC (HL)` (R220). -/
  | decHl
  /-- `DAA` (R221). -/
  | daa
  /-- `CPL` (R222). -/
  | cpl
  /-- `SCF` (R223). -/
  | scf
  /-- `CCF` (R224). -/
  | ccf
  /-- `ADD HL,rr` (R230). -/
  | addHlRr (p : Pair)
  /-- `INC rr` (R231). -/
  | incRr (p : Pair)
  /-- `DEC rr` (R232). -/
  | decRr (p : Pair)
  /-- `ADD SP,e8` (R233). -/
  | addSpE8 (e : Byte)
  /-- `RLCA` (R240). -/
  | rlca
  /-- `RRCA` (R241). -/
  | rrca
  /-- `RLA` (R242). -/
  | rla
  /-- `RRA` (R243). -/
  | rra
  /-- `JP n16` (R270). -/
  | jpN16 (n : Word)
  /-- `JP cc,n16` (R271). -/
  | jpCcN16 (cc : Cond) (n : Word)
  /-- `JP HL` (R272). -/
  | jpHl
  /-- `JR e8` (R273). -/
  | jrE8 (e : Byte)
  /-- `JR cc,e8` (R274). -/
  | jrCcE8 (cc : Cond) (e : Byte)
  /-- `CALL n16` (R275). -/
  | callN16 (n : Word)
  /-- `CALL cc,n16` (R276). -/
  | callCcN16 (cc : Cond) (n : Word)
  /-- `RET` (R277). -/
  | ret
  /-- `RET cc` (R278). -/
  | retCc (cc : Cond)
  /-- `RETI` (R279). -/
  | reti
  /-- `RST t` (R280). -/
  | rstT (t : BitVec 3)
  /-- `NOP` (R285). -/
  | nop
  /-- `HALT` (R286). -/
  | halt
  /-- `STOP` (R287). -/
  | stop
  /-- `DI` (R288). -/
  | di
  /-- `EI` (R289). -/
  | ei
  /-- the extended-opcode byte 0xCB with the byte that follows it (R290). -/
  | cbPrefix (op2 : Byte)
  /-- the unassigned opcode 0xD3 (R291). -/
  | illegalD3
  /-- the unassigned opcode 0xDB (R291). -/
  | illegalDB
  /-- the unassigned opcode 0xDD (R291). -/
  | illegalDD
  /-- the unassigned opcode 0xE3 (R291). -/
  | illegalE3
  /-- the unassigned opcode 0xE4 (R291). -/
  | illegalE4
  /-- the unassigned opcode 0xEB (R291). -/
  | illegalEB
  /-- the unassigned opcode 0xEC (R291). -/
  | illegalEC
  /-- the unassigned opcode 0xED (R291). -/
  | illegalED
  /-- the unassigned opcode 0xF4 (R291). -/
  | illegalF4
  /-- the unassigned opcode 0xFC (R291). -/
  | illegalFC
  /-- the unassigned opcode 0xFD (R291). -/
  | illegalFD
  /-- `RLC r` (R244). -/
  | rlcR (r : Reg8)
  /-- `RLC (HL)` (R245). -/
  | rlcHl
  /-- `RRC r` (R246). -/
  | rrcR (r : Reg8)
  /-- `RRC (HL)` (R247). -/
  | rrcHl
  /-- `RL r` (R248). -/
  | rlR (r : Reg8)
  /-- `RL (HL)` (R249). -/
  | rlHl
  /-- `RR r` (R250). -/
  | rrR (r : Reg8)
  /-- `RR (HL)` (R251). -/
  | rrHl
  /-- `SLA r` (R252). -/
  | slaR (r : Reg8)
  /-- `SLA (HL)` (R253). -/
  | slaHl
  /-- `SRA r` (R254). -/
  | sraR (r : Reg8)
  /-- `SRA (HL)` (R255). -/
  | sraHl
  /-- `SWAP r` (R256). -/
  | swapR (r : Reg8)
  /-- `SWAP (HL)` (R257). -/
  | swapHl
  /-- `SRL r` (R258). -/
  | srlR (r : Reg8)
  /-- `SRL (HL)` (R259). -/
  | srlHl
  /-- `BIT b,r` (R260). -/
  | bitBR (b : BitVec 3) (r : Reg8)
  /-- `BIT b,(HL)` (R261). -/
  | bitBHl (b : BitVec 3)
  /-- `RES b,r` (R262). -/
  | resBR (b : BitVec 3) (r : Reg8)
  /-- `RES b,(HL)` (R263). -/
  | resBHl (b : BitVec 3)
  /-- `SET b,r` (R264). -/
  | setBR (b : BitVec 3) (r : Reg8)
  /-- `SET b,(HL)` (R265). -/
  | setBHl (b : BitVec 3)
  /-- interrupt-table entry 0 (R306). -/
  | intVblank
  /-- interrupt-table entry 1 (R306). -/
  | intStat
  /-- interrupt-table entry 2 (R306). -/
  | intTimer
  /-- interrupt-table entry 3 (R306). -/
  | intSerial
  /-- interrupt-table entry 4 (R306). -/
  | intJoypad
  deriving DecidableEq, Repr

end Sys2Proof
end

