-- ==== Sys2Proof/WellFormed.lean ====
section
/-! DEFINITION. Which instruction terms stand for a row of the opcode table with an operand the row admits (the table's
`constraints`), and which of them the engine can meet in the instruction stream. A register field of value 6 needs no check:
`Reg8` has no such value. -/

namespace Sys2Proof

/-- Why a term is not well formed. -/
inductive IllFormed where
  /-- `POP rs` with the stack pair 3: that value of the field is the row `POP AF` (opcode_table.json, constraint `!=3`). -/
  | popOfAf
  deriving DecidableEq, Repr

/-- The check itself: the reason a term is refused, or none. -/
def Instr.illFormed : Instr → Option IllFormed
  | .popRs .af => some .popOfAf
  | _ => none

/-- A term is well formed when no check refuses it. -/
def Instr.WellFormed (i : Instr) : Bool := i.illFormed.isNone

/-- The instructions that stand in memory as a word of their own: all but the five entries of the interrupt table, which have
no encoding (30_encoding.md rule R128), and the table entry PREFIX, whose two bytes ARE the instruction of the secondary table
that the second byte selects (R126, R290). -/
def Instr.inStream : Instr → Bool
  | .cbPrefix _ => false
  | .intVblank | .intStat | .intTimer | .intSerial | .intJoypad => false
  | _ => true

end Sys2Proof
end

