-- ==== Sys2Proof/Decode.lean ====
section
/-! DEFINITION. The decoder (30_encoding.md rules R120 to R130), total on any bytes, and after it the encoder written from the
same tables. -/

namespace Sys2Proof

/-! ## Fields -/

/-- `hi ++ lo`: a 16-bit value from its two bytes (00_scope.md rule R7; R123 for immediates, low byte first in memory). -/
def join16 (hi lo : Byte) : Word := hi ++ lo

/-- Bits [15:8] (R7). -/
def hiByte (w : Word) : Byte := w.extractLsb' 8 8

/-- Bits [7:0] (R7). -/
def loByte (w : Word) : Byte := w.extractLsb' 0 8

/-- `x = op[7:6]` (R122). -/
def fieldX (op : Byte) : Nat := op.toNat / 64
/-- `y = op[5:3]`, also a bit number, a restart number and, below 4 or less 4, a condition (R122). -/
def fieldY (op : Byte) : Nat := op.toNat / 8 % 8
/-- `z = op[2:0]` (R122). -/
def fieldZ (op : Byte) : Nat := op.toNat % 8
/-- `p = op[5:4]` (R122). -/
def fieldP (op : Byte) : Nat := op.toNat / 16 % 4
/-- `q = op[3]` (R122). -/
def fieldQ (op : Byte) : Nat := op.toNat / 8 % 2

/-- The register a 3-bit field selects; 6 selects none (R8). -/
def reg8Of : Nat → Option Reg8
  | 0 => some .b
  | 1 => some .c
  | 2 => some .d
  | 3 => some .e
  | 4 => some .h
  | 5 => some .l
  | 7 => some .a
  | _ => none

/-- `xx[p]` (R8). -/
def pairOf : Nat → Pair
  | 0 => .bc
  | 1 => .de
  | 2 => .hl
  | _ => .sp

/-- `xs[p]` (R8). -/
def stackPairOf : Nat → StackPair
  | 0 => .bc
  | 1 => .de
  | 2 => .hl
  | _ => .af

/-- The condition of a 2-bit field (R11). -/
def condOf : Nat → Cond
  | 0 => .nz
  | 1 => .z
  | 2 => .nc
  | _ => .c

/-! ## The two tables -/

/-- The `(HL)` form, or the register form, of a row pair that `z` or `y` selects between (R122, R125). -/
def orHl (r : Option Reg8) (reg : Reg8 → Instr) (mem : Instr) : Instr :=
  match r with
  | some i => reg i
  | none => mem

/-- `alu[y] A,r[z]` (R124: 0 ADD, 1 ADC, 2 SUB, 3 SBC, 4 AND, 5 XOR, 6 OR, 7 CP). -/
def decodeAlu (y z : Nat) : Instr :=
  match y with
  | 0 => orHl (reg8Of z) .addAR .addAHl
  | 1 => orHl (reg8Of z) .adcAR .adcAHl
  | 2 => orHl (reg8Of z) .subAR .subAHl
  | 3 => orHl (reg8Of z) .sbcAR .sbcAHl
  | 4 => orHl (reg8Of z) .andAR .andAHl
  | 5 => orHl (reg8Of z) .xorAR .xorAHl
  | 6 => orHl (reg8Of z) .orAR .orAHl
  | _ => orHl (reg8Of z) .cpAR .cpAHl

/-- `alu[y] A,n8` (R125). -/
def decodeAluN8 (y : Nat) (n : Byte) : Instr :=
  match y with
  | 0 => .addAN8 n
  | 1 => .adcAN8 n
  | 2 => .subAN8 n
  | 3 => .sbcAN8 n
  | 4 => .andAN8 n
  | 5 => .xorAN8 n
  | 6 => .orAN8 n
  | _ => .cpAN8 n

/-- The secondary table (R127): all 256 values of `op2` are assigned. -/
def decodeSecondary (op2 : Byte) : Instr :=
  let y := fieldY op2
  let b : BitVec 3 := BitVec.ofNat 3 y
  let r := reg8Of (fieldZ op2)
  match fieldX op2 with
  | 0 =>
    match y with
    | 0 => orHl r .rlcR .rlcHl
    | 1 => orHl r .rrcR .rrcHl
    | 2 => orHl r .rlR .rlHl
    | 3 => orHl r .rrR .rrHl
    | 4 => orHl r .slaR .slaHl
    | 5 => orHl r .sraR .sraHl
    | 6 => orHl r .swapR .swapHl
    | _ => orHl r .srlR .srlHl
  | 1 => orHl r (.bitBR b) (.bitBHl b)
  | 2 => orHl r (.resBR b) (.resBHl b)
  | _ => orHl r (.setBR b) (.setBHl b)

/-- Rows `x` = 0 of the field decode of the primary table (R125). -/
def decodeX0 (op b1 b2 : Byte) : Instr :=
  let y := fieldY op
  let p := fieldP op
  match fieldZ op, fieldQ op with
  | 0, _ =>
    match y with
    | 0 => .nop
    | 1 => .ldN16Sp (join16 b2 b1)
    | 2 => .stop
    | 3 => .jrE8 b1
    | _ => .jrCcE8 (condOf (y - 4)) b1
  | 1, 0 => .ldRrN16 (pairOf p) (join16 b2 b1)
  | 1, _ => .addHlRr (pairOf p)
  | 2, 0 =>
    match p with
    | 0 => .ldBcA
    | 1 => .ldDeA
    | 2 => .ldHliA
    | _ => .ldHldA
  | 2, _ =>
    match p with
    | 0 => .ldABc
    | 1 => .ldADe
    | 2 => .ldAHli
    | _ => .ldAHld
  | 3, 0 => .incRr (pairOf p)
  | 3, _ => .decRr (pairOf p)
  | 4, _ => orHl (reg8Of y) .incR .incHl
  | 5, _ => orHl (reg8Of y) .decR .decHl
  | 6, _ => orHl (reg8Of y) (fun r => .ldRN8 r b1) (.ldHlN8 b1)
  | _, _ =>
    match y with
    | 0 => .rlca
    | 1 => .rrca
    | 2 => .rla
    | 3 => .rra
    | 4 => .daa
    | 5 => .cpl
    | 6 => .scf
    | _ => .ccf

/-- Rows `x` = 1: loads between registers and `(HL)`, with 0x76 = `HALT` (R125). -/
def decodeX1 (op : Byte) : Instr :=
  match reg8Of (fieldY op), reg8Of (fieldZ op) with
  | some rd, some rs => .ldRR rd rs
  | some rd, none => .ldRHl rd
  | none, some rs => .ldHlR rs
  | none, none => .halt

/-- Rows `x` = 3: control, stack, immediate arithmetic, high page, and the eleven unassigned opcodes (R125, R129). -/
def decodeX3 (op b1 b2 : Byte) : Instr :=
  let y := fieldY op
  let p := fieldP op
  match fieldZ op, fieldQ op with
  | 0, _ =>
    match y with
    | 4 => .ldhN8A b1
    | 5 => .addSpE8 b1
    | 6 => .ldhAN8 b1
    | 7 => .ldHlSpE8 b1
    | _ => .retCc (condOf y)
  | 1, 0 =>
    match stackPairOf p with
    | .af => .popAf
    | q => .popRs q
  | 1, _ =>
    match p with
    | 0 => .ret
    | 1 => .reti
    | 2 => .jpHl
    | _ => .ldSpHl
  | 2, _ =>
    match y with
    | 4 => .ldhCA
    | 5 => .ldN16A (join16 b2 b1)
    | 6 => .ldhAC
    | 7 => .ldAN16 (join16 b2 b1)
    | _ => .jpCcN16 (condOf y) (join16 b2 b1)
  | 3, _ =>
    match y with
    | 0 => .jpN16 (join16 b2 b1)
    | 1 => decodeSecondary b1
    | 2 => .illegalD3
    | 3 => .illegalDB
    | 4 => .illegalE3
    | 5 => .illegalEB
    | 6 => .di
    | _ => .ei
  | 4, _ =>
    match y with
    | 4 => .illegalE4
    | 5 => .illegalEC
    | 6 => .illegalF4
    | 7 => .illegalFC
    | _ => .callCcN16 (condOf y) (join16 b2 b1)
  | 5, 0 => .pushRs (stackPairOf p)
  | 5, _ =>
    match p with
    | 0 => .callN16 (join16 b2 b1)
    | 1 => .illegalDD
    | 2 => .illegalED
    | _ => .illegalFD
  | 6, _ => decodeAluN8 y b1
  | _, _ => .rstT (BitVec.ofNat 3 y)

/-- The instruction whose first byte is `op` and whose following bytes are `b1` and `b2`, as far as it has them: the primary
table (R124, R125) and, behind 0xCB, the secondary one (R126). The byte after `STOP` is ignored (R130). -/
def decodeOp (op b1 b2 : Byte) : Instr :=
  match fieldX op with
  | 0 => decodeX0 op b1 b2
  | 1 => decodeX1 op
  | 2 => decodeAlu (fieldY op) (fieldZ op)
  | _ => decodeX3 op b1 b2

/-- The length in bytes, a function of the first byte alone (R121): 3 for the `OP_N16` rows, 2 for `OP_N8`, `OP_E8`, `OP_PAD`
and `CB`, else 1. -/
def instrLength (op : Byte) : Nat :=
  let y := fieldY op
  match fieldX op, fieldZ op, fieldQ op with
  | 0, 0, _ => if y = 0 then 1 else if y = 1 then 3 else 2
  | 0, 1, 0 => 3
  | 0, 6, _ => 2
  | 3, 0, _ => if y < 4 then 1 else 2
  | 3, 2, _ => if y = 4 ∨ y = 6 then 1 else 3
  | 3, 3, _ => if y = 0 then 3 else if y = 1 then 2 else 1
  | 3, 4, _ => if y < 4 then 3 else 1
  | 3, 5, 1 => if y = 1 then 3 else 1
  | 3, 6, _ => 2
  | _, _, _ => 1

/-! ## The decoder over bytes -/

/-- Why a list of bytes is not the beginning of an instruction. No byte value is refused: every value of both tables is
assigned (R124, R127, R129). -/
inductive DecodeError where
  /-- There is no byte. -/
  | empty
  /-- The instruction that begins with `op` is longer than the list. -/
  | truncated (op : Byte)
  deriving DecidableEq, Repr

/-- The instruction at the head of a list of bytes, and the bytes after it. -/
def decode : List Byte → Except DecodeError (Instr × List Byte)
  | [] => .error .empty
  | op :: rest =>
    match instrLength op, rest with
    | 1, _ => .ok (decodeOp op 0 0, rest)
    | 2, b1 :: rest' => .ok (decodeOp op b1 0, rest')
    | 3, b1 :: b2 :: rest' => .ok (decodeOp op b1 b2, rest')
    | _, _ => .error (.truncated op)

/-- The instruction the decoder reads from an instruction whose bits are `w`: bit 0 is the least significant bit of the first
byte, the second byte is bits 15..8, the third bits 23..16; bits from `nbits` up are 0. -/
def decodeTableWord (nbits w : Nat) : Option Instr :=
  let v := w % 2 ^ nbits
  match decode [BitVec.ofNat 8 v, BitVec.ofNat 8 (v / 256), BitVec.ofNat 8 (v / 65536)] with
  | .ok (i, _) => some i
  | .error _ => none

/-! ## The encoder -/

/-- The encoding index of a register (R8). -/
def Reg8.code : Reg8 → Nat
  | .b => 0
  | .c => 1
  | .d => 2
  | .e => 3
  | .h => 4
  | .l => 5
  | .a => 7

/-- The encoding index of a pair (R8). -/
def Pair.code : Pair → Nat
  | .bc => 0
  | .de => 1
  | .hl => 2
  | .sp => 3

/-- The encoding index of a stack pair (R8). -/
def StackPair.code : StackPair → Nat
  | .bc => 0
  | .de => 1
  | .hl => 2
  | .af => 3

/-- The encoding index of a condition (R11). -/
def Cond.code : Cond → Nat
  | .nz => 0
  | .z => 1
  | .nc => 2
  | .c => 3

/-- A byte from its fields `x`, `y`, `z` (R122). -/
def xyz (x y z : Nat) : Byte := BitVec.ofNat 8 (x * 64 + y * 8 + z)

/-- A byte from its fields `x`, `p`, `q`, `z` (R122). -/
def xpqz (x p q z : Nat) : Byte := BitVec.ofNat 8 (x * 64 + p * 16 + q * 8 + z)

/-- An `OP_N16` instruction: the low byte of the immediate at the lower address (R121). -/
def withN16 (op : Byte) (n : Word) : List Byte := [op, loByte n, hiByte n]

/-- A prefixed instruction (R126). -/
def withCb (op2 : Byte) : List Byte := [0xCB, op2]

/-- The bytes of an instruction in ascending addresses (R121, R124, R127). The padding byte of `STOP` is written as 0x00
(R287: "conventionally 0x00"). The entries of the interrupt table have no bytes (R128). -/
def encode : Instr → List Byte
  | .ldRR rd rs => [xyz 1 rd.code rs.code]
  | .ldRN8 r n => [xyz 0 r.code 6, n]
  | .ldRHl r => [xyz 1 r.code 6]
  | .ldHlR r => [xyz 1 6 r.code]
  | .ldHlN8 n => [0x36, n]
  | .ldABc => [0x0A]
  | .ldADe => [0x1A]
  | .ldBcA => [0x02]
  | .ldDeA => [0x12]
  | .ldAN16 n => withN16 0xFA n
  | .ldN16A n => withN16 0xEA n
  | .ldhAC => [0xF2]
  | .ldhCA => [0xE2]
  | .ldhAN8 n => [0xF0, n]
  | .ldhN8A n => [0xE0, n]
  | .ldAHld => [0x3A]
  | .ldHldA => [0x32]
  | .ldAHli => [0x2A]
  | .ldHliA => [0x22]
  | .ldRrN16 p n => withN16 (xpqz 0 p.code 0 1) n
  | .ldN16Sp n => withN16 0x08 n
  | .ldSpHl => [0xF9]
  | .ldHlSpE8 e => [0xF8, e]
  | .pushRs q => [xpqz 3 q.code 0 5]
  | .popRs q => [xpqz 3 q.code 0 1]
  | .popAf => [0xF1]
  | .addAR r => [xyz 2 0 r.code]
  | .addAHl => [0x86]
  | .addAN8 n => [0xC6, n]
  | .adcAR r => [xyz 2 1 r.code]
  | .adcAHl => [0x8E]
  | .adcAN8 n => [0xCE, n]
  | .subAR r => [xyz 2 2 r.code]
  | .subAHl => [0x96]
  | .subAN8 n => [0xD6, n]
  | .sbcAR r => [xyz 2 3 r.code]
  | .sbcAHl => [0x9E]
  | .sbcAN8 n => [0xDE, n]
  | .andAR r => [xyz 2 4 r.code]
  | .andAHl => [0xA6]
  | .andAN8 n => [0xE6, n]
  | .xorAR r => [xyz 2 5 r.code]
  | .xorAHl => [0xAE]
  | .xorAN8 n => [0xEE, n]
  | .orAR r => [xyz 2 6 r.code]
  | .orAHl => [0xB6]
  | .orAN8 n => [0xF6, n]
  | .cpAR r => [xyz 2 7 r.code]
  | .cpAHl => [0xBE]
  | .cpAN8 n => [0xFE, n]
  | .incR r => [xyz 0 r.code 4]
  | .incHl => [0x34]
  | .decR r => [xyz 0 r.code 5]
  | .decHl => [0x35]
  | .daa => [0x27]
  | .cpl => [0x2F]
  | .scf => [0x37]
  | .ccf => [0x3F]
  | .addHlRr p => [xpqz 0 p.code 1 1]
  | .incRr p => [xpqz 0 p.code 0 3]
  | .decRr p => [xpqz 0 p.code 1 3]
  | .addSpE8 e => [0xE8, e]
  | .rlca => [0x07]
  | .rrca => [0x0F]
  | .rla => [0x17]
  | .rra => [0x1F]
  | .jpN16 n => withN16 0xC3 n
  | .jpCcN16 cc n => withN16 (xyz 3 cc.code 2) n
  | .jpHl => [0xE9]
  | .jrE8 e => [0x18, e]
  | .jrCcE8 cc e => [xyz 0 (4 + cc.code) 0, e]
  | .callN16 n => withN16 0xCD n
  | .callCcN16 cc n => withN16 (xyz 3 cc.code 4) n
  | .ret => [0xC9]
  | .retCc cc => [xyz 3 cc.code 0]
  | .reti => [0xD9]
  | .rstT t => [xyz 3 t.toNat 7]
  | .nop => [0x00]
  | .halt => [0x76]
  | .stop => [0x10, 0x00]
  | .di => [0xF3]
  | .ei => [0xFB]
  | .cbPrefix op2 => withCb op2
  | .illegalD3 => [0xD3]
  | .illegalDB => [0xDB]
  | .illegalDD => [0xDD]
  | .illegalE3 => [0xE3]
  | .illegalE4 => [0xE4]
  | .illegalEB => [0xEB]
  | .illegalEC => [0xEC]
  | .illegalED => [0xED]
  | .illegalF4 => [0xF4]
  | .illegalFC => [0xFC]
  | .illegalFD => [0xFD]
  | .rlcR r => withCb (xyz 0 0 r.code)
  | .rlcHl => withCb 0x06
  | .rrcR r => withCb (xyz 0 1 r.code)
  | .rrcHl => withCb 0x0E
  | .rlR r => withCb (xyz 0 2 r.code)
  | .rlHl => withCb 0x16
  | .rrR r => withCb (xyz 0 3 r.code)
  | .rrHl => withCb 0x1E
  | .slaR r => withCb (xyz 0 4 r.code)
  | .slaHl => withCb 0x26
  | .sraR r => withCb (xyz 0 5 r.code)
  | .sraHl => withCb 0x2E
  | .swapR r => withCb (xyz 0 6 r.code)
  | .swapHl => withCb 0x36
  | .srlR r => withCb (xyz 0 7 r.code)
  | .srlHl => withCb 0x3E
  | .bitBR b r => withCb (xyz 1 b.toNat r.code)
  | .bitBHl b => withCb (xyz 1 b.toNat 6)
  | .resBR b r => withCb (xyz 2 b.toNat r.code)
  | .resBHl b => withCb (xyz 2 b.toNat 6)
  | .setBR b r => withCb (xyz 3 b.toNat r.code)
  | .setBHl b => withCb (xyz 3 b.toNat 6)
  | .intVblank | .intStat | .intTimer | .intSerial | .intJoypad => []

end Sys2Proof
end

