-- ==== Sys2Proof/Config.lean ====
section
/-! DEFINITION. The names of the memory-mapped registers (20_memory.md rule R85), the launch parameters of the machine
(00_scope.md rule R6) and the free values the spec leaves open. Parameters are plain data and stand in `State.cfg`, so that a
statement about every state holds for every value of an OPEN parameter. Free values are opaque constants: nothing can be
proved of their values. -/

namespace Sys2Proof

/-! ## The register block -/

/-- The memory-mapped registers R85 lists; `wave i` is byte `i` of wave RAM. -/
inductive IoReg where
  | p1 | sb | sc | div | tima | tma | tac | intf
  | nr10 | nr11 | nr12 | nr13 | nr14
  | nr21 | nr22 | nr23 | nr24
  | nr30 | nr31 | nr32 | nr33 | nr34
  | nr41 | nr42 | nr43 | nr44
  | nr50 | nr51 | nr52
  | wave (i : BitVec 4)
  | lcdc | stat | scy | scx | ly | lyc | dma | bgp | obp0 | obp1 | wy | wx
  | vbk | bank | hdma1 | hdma2 | hdma3 | hdma4 | hdma5
  | bcps | bcpd | ocps | ocpd | svbk
  deriving DecidableEq, Repr

/-- The offset of a register in the block that begins at 0xFF00 (R85). -/
def IoReg.offset : IoReg → Nat
  | .p1 => 0x00
  | .sb => 0x01
  | .sc => 0x02
  | .div => 0x04
  | .tima => 0x05
  | .tma => 0x06
  | .tac => 0x07
  | .intf => 0x0F
  | .nr10 => 0x10
  | .nr11 => 0x11
  | .nr12 => 0x12
  | .nr13 => 0x13
  | .nr14 => 0x14
  | .nr21 => 0x16
  | .nr22 => 0x17
  | .nr23 => 0x18
  | .nr24 => 0x19
  | .nr30 => 0x1A
  | .nr31 => 0x1B
  | .nr32 => 0x1C
  | .nr33 => 0x1D
  | .nr34 => 0x1E
  | .nr41 => 0x20
  | .nr42 => 0x21
  | .nr43 => 0x22
  | .nr44 => 0x23
  | .nr50 => 0x24
  | .nr51 => 0x25
  | .nr52 => 0x26
  | .wave i => 0x30 + i.toNat
  | .lcdc => 0x40
  | .stat => 0x41
  | .scy => 0x42
  | .scx => 0x43
  | .ly => 0x44
  | .lyc => 0x45
  | .dma => 0x46
  | .bgp => 0x47
  | .obp0 => 0x48
  | .obp1 => 0x49
  | .wy => 0x4A
  | .wx => 0x4B
  | .vbk => 0x4F
  | .bank => 0x50
  | .hdma1 => 0x51
  | .hdma2 => 0x52
  | .hdma3 => 0x53
  | .hdma4 => 0x54
  | .hdma5 => 0x55
  | .bcps => 0x68
  | .bcpd => 0x69
  | .ocps => 0x6A
  | .ocpd => 0x6B
  | .svbk => 0x70

/-- The registers marked "C" in R85, which exist in colour mode only (R80). -/
def IoReg.colourOnly : IoReg → Bool
  | .vbk | .hdma1 | .hdma2 | .hdma3 | .hdma4 | .hdma5 | .bcps | .bcpd | .ocps | .ocpd | .svbk => true
  | _ => false

/-- All registers but wave RAM: the engine's, the bus's and channel 1's to 3's. -/
def IoReg.namedLow : List IoReg :=
  [.p1, .sb, .sc, .div, .tima, .tma, .tac, .intf, .nr10, .nr11, .nr12, .nr13, .nr14, .nr21, .nr22, .nr23, .nr24, .nr30,
   .nr31, .nr32, .nr33, .nr34]

/-- The rest: channel 4's, the mixer's, the video unit's and the colour-only ones. -/
def IoReg.namedHigh : List IoReg :=
  [.nr41, .nr42, .nr43, .nr44, .nr50, .nr51, .nr52, .lcdc, .stat, .scy, .scx, .ly, .lyc, .dma, .bgp, .obp0, .obp1, .wy,
   .wx, .vbk, .bank, .hdma1, .hdma2, .hdma3, .hdma4, .hdma5, .bcps, .bcpd, .ocps, .ocpd, .svbk]

/-! ## Launch parameters -/

/-- `MBC_KIND`: the four bank-controller variants (20_memory.md rule R95); `mbc3` says whether it has a real-time clock. -/
inductive MbcKind where
  | noBanking
  | mbc1
  | mbc3 (rtc : Bool)
  | mbc5
  deriving DecidableEq, Repr

/-- `BOOT_ROM`: no image, or one of the two fixed sizes (R6: 256 and 2304 bytes). -/
inductive BootRom where
  | absent
  | bytes256
  | bytes2304
  deriving DecidableEq, Repr

/-- The parameters of R6 whose value a launch chooses. A step never changes one. -/
structure Params where
  /-- `CGB_MODE`. -/
  cgb : Bool
  /-- `MBC_KIND`. -/
  mbc : MbcKind
  /-- `BOOT_ROM`. -/
  boot : BootRom
  /-- `NB`, the number of 16 KiB ROM banks in the image (R95). -/
  romBanks : Nat
  /-- The length of the image in bytes; a read beyond it gives `OPEN_BUS` (R66). -/
  romSize : Nat
  /-- `NR`, the number of 8 KiB RAM banks the header declares (R95). -/
  ramBanks : Nat
  /-- Whether the cartridge declares battery backing (R107). -/
  battery : Bool
  /-- `WRAM_BANKS`. -/
  wramBanks : Nat
  /-- `IO_READ_OR`, one entry a register that has bits which read 1; others read as stored (R86). -/
  ioReadOr : List (IoReg × Byte)
  /-- `IO_WRITE_MASK`, one entry a register that has bits which ignore writes; others take all eight (R86). -/
  ioWriteMask : List (IoReg × Byte)
  /-- `OAM_DMA_STALLS_CPU` (60_exceptions.md rule R317). -/
  oamDmaStallsCpu : Bool
  /-- `PIXEL_START_DOT` (R336). -/
  pixelStartDot : Nat
  /-- `HBLANK_DOT` (R336). -/
  hblankDot : Nat
  /-- `GRAY[0]` to `GRAY[3]` (R343). -/
  gray0 : Rgba
  gray1 : Rgba
  gray2 : Rgba
  gray3 : Rgba
  /-- `BLANK_RGBA` (R346). -/
  blankRgba : Rgba
  /-- `LEN_DIV` (R351). -/
  lenDiv : Nat
  /-- `SWEEP_DIV` (R351). -/
  sweepDiv : Nat
  /-- `GDMA_TICKS_PER_BYTE` (R83). -/
  gdmaTicksPerByte : Nat
  /-- `SAMPLES_PER_FRAME` (R356). -/
  samplesPerFrame : Nat
  deriving DecidableEq, Repr

namespace Config

/-! ### Parameters the spec fixes (R6) -/

/-- `UNMAPPED` (decision D18). -/
def unmapped : Byte := 0xFF
/-- `OPEN_BUS` (R66). -/
def openBus : Byte := 0xFF
/-- `OAM_DMA_TICKS`. -/
def oamDmaTicks : Nat := 160
/-- `DOTS_PER_LINE`. -/
def dotsPerLine : Nat := 456
/-- `LINES_PER_FRAME`. -/
def linesPerFrame : Nat := 154
/-- `TICKS_PER_FRAME` = 456 x 154. -/
def ticksPerFrame : Nat := 70224
/-- `FRAME_SEQ_PERIOD`, and with it `ENV_DIV` (R351). -/
def frameSeqPeriod : Nat := 16384

/-- The default of `WRAM_BANKS` (R6, conflict C3, decision D25): 2 in monochrome mode, 8 in colour mode. -/
def defaultWramBanks (cgb : Bool) : Nat := if cgb then 8 else 2

/-! ### Defaults of the masks (R86) -/

/-- The read OR-masks of R86; every other listed register has 0x00. -/
def defaultReadOr (cgb : Bool) : List (IoReg × Byte) :=
  [(.p1, 0xC0), (.sc, if cgb then 0x7C else 0x7E), (.tac, 0xF8), (.intf, 0xE0), (.nr10, 0x80), (.nr11, 0x3F),
   (.nr13, 0xFF), (.nr14, 0xBF), (.nr21, 0x3F), (.nr23, 0xFF), (.nr24, 0xBF), (.nr30, 0x7F), (.nr31, 0xFF),
   (.nr32, 0x9F), (.nr33, 0xFF), (.nr34, 0xBF), (.nr41, 0xFF), (.nr44, 0xBF), (.nr52, 0x70), (.stat, 0x80),
   (.vbk, 0xFE), (.bcps, 0x40), (.ocps, 0x40), (.svbk, 0xF8)]

/-- The write masks of R86; every other listed register has 0xFF. -/
def defaultWriteMask : List (IoReg × Byte) :=
  [(.p1, 0x30), (.tac, 0x07), (.intf, 0x1F), (.stat, 0xFC), (.ly, 0x00), (.nr52, 0x80), (.vbk, 0x01), (.svbk, 0x07)]

/-! ### Free values -/

/-- The host's controller bitmask for frame `n` (60_exceptions.md rules R332, R359; U18: any value per frame). Log 10. -/
opaque controllerMask : Nat → BitVec 8

/-- `JOYPAD_LAYOUT`: the mask bit of button `i`, the buttons numbered right, left, up, down, A, B, select, start (R332; OPEN).
Log 10. -/
opaque joypadLayout : Fin 8 → Fin 8

/-- `WALL_CLOCK`: the host's time in seconds at draw `n` (20_memory.md rule R103; U17: any value per access). Log 11. -/
opaque wallClock : Nat → Nat

/-- The time the clock shows after a write of a value outside the field's range, which R103 cannot reconstruct: a free value
for each draw. Log 12. -/
opaque rtcOutOfRange : Nat → Int

/-- Bits [6:1] of the day-high register as read at draw `n`, of which R103 says nothing. Log 12. -/
opaque rtcDayHighRest : Nat → BitVec 6

/-- `SAMPLE_FORMAT`: how a side's value 0..60 is encoded in a buffer sample (R355; OPEN). Log 19. -/
opaque sampleFormat : Nat → Int

end Config

/-- Every OPEN parameter at the default R6 names for a mode, with a 256-byte boot ROM, no bank controller, 32 KiB of cartridge
ROM and no cartridge RAM (DESIGN CHOICE, log 5). -/
def Params.defaultFor (cgb : Bool) : Params where
  cgb := cgb
  mbc := .noBanking
  boot := .bytes256
  romBanks := 2
  romSize := 0x8000
  ramBanks := 0
  battery := false
  wramBanks := Config.defaultWramBanks cgb
  ioReadOr := Config.defaultReadOr cgb
  ioWriteMask := Config.defaultWriteMask
  oamDmaStallsCpu := false
  pixelStartDot := 91
  hblankDot := 252
  gray0 := 0xFFFFFFFF
  gray1 := 0xAAAAAAFF
  gray2 := 0x555555FF
  gray3 := 0x000000FF
  blankRgba := 0xFFFFFFFF
  lenDiv := 4096
  sweepDiv := 8192
  gdmaTicksPerByte := 2
  samplesPerFrame := 735

/-- The parameters of `State.reset`: monochrome (DESIGN CHOICE, log 1). -/
def Params.default : Params := Params.defaultFor false

/-- The constraints R6, R336 and R351 put on the OPEN parameters: `80 < PIXEL_START_DOT`,
`PIXEL_START_DOT + 159 < HBLANK_DOT < 456`, and `LEN_DIV < SWEEP_DIV < ENV_DIV` powers of two. -/
def Params.Ok (p : Params) : Prop :=
  80 < p.pixelStartDot ∧ p.pixelStartDot + 159 < p.hblankDot ∧ p.hblankDot < 456 ∧
  (∃ j k : Nat, j < k ∧ k < 14 ∧ p.lenDiv = 2 ^ j ∧ p.sweepDiv = 2 ^ k)

end Sys2Proof
end

