-- ==== Sys2Proof/Machine/State.lean ====
section
/-! DEFINITION. The state of the machine as plain data (10_state.md rules R20 to R46, R335, R350), the reasons it can stop, and
the state after reset (rule R44). Its fields follow INVENTORY.md, heading State. -/

namespace Sys2Proof.Machine

/-! ## The engine -/

/-- The four real bits of F; bits [3:0] of the byte are hard-wired 0 (R23, R24: "A model may represent F as four
Booleans"). -/
structure Flags where
  z : Bool
  n : Bool
  h : Bool
  c : Bool
  deriving DecidableEq, Repr

/-- The five interrupt sources; the order is the priority (60_exceptions.md rule R301). -/
inductive Irq where
  | vblank | stat | timer | serial | joypad
  deriving DecidableEq, Repr

/-- What the instruction engine owns (R20 to R35). No other unit writes it (R22). -/
structure Cpu where
  a : Byte
  f : Flags
  b : Byte
  c : Byte
  d : Byte
  e : Byte
  h : Byte
  l : Byte
  sp : Word
  pc : Word
  /-- `IME` (R29). -/
  ime : Bool
  /-- `ei_delay`, 0 to 2 (R33). -/
  eiDelay : Nat
  halted : Bool
  stopped : Bool
  /-- `cur`: the instruction being executed, or none (R32). -/
  cur : Option Instr
  /-- `ustep`: ticks of `cur` already spent (R32). -/
  ustep : Nat
  /-- The duration in ticks of `cur`, set by its first tick: an executor's temporary (R32, R384). -/
  dur : Nat
  /-- `next_int`: the interrupt-table entry the next decode loads (R32, R311). -/
  nextInt : Option Irq
  deriving DecidableEq, Repr

/-! ## Bus devices -/

/-- The timer's own state; `TIMA`, `TMA`, `TAC` are cells of the register block (R325 to R329). -/
structure Timer where
  div16 : Word
  tinPrev : Bool
  reloadPending : Bool
  deriving DecidableEq, Repr

/-- OAM DMA (20_memory.md rule R81). -/
structure OamDma where
  src : Word
  left : Nat
  deriving DecidableEq, Repr

/-- HBlank and General DMA, and the stall they impose on the engine (R83, R84, R36). -/
structure Hdma where
  src : Word
  dst : Word
  remaining : BitVec 7
  active : Bool
  stall : Nat
  deriving DecidableEq, Repr

/-- The controller mask of the current frame, the two group-select bits `P1[5:4]`, and the four joypad lines as last evaluated
(R332). -/
structure Joypad where
  mask : BitVec 8
  select : BitVec 2
  lines : BitVec 4
  deriving DecidableEq, Repr

/-- The bank controller's registers, of which each variant uses its own (R97 to R99): `romBank` is `bank_lo`, or the 7-bit or
9-bit ROM bank; `ramSel` is `ram_sel` or `ram_bank`. -/
structure Mbc where
  ramEn : Bool
  romBank : BitVec 9
  bankHi : BitVec 2
  ramSel : Byte
  mode : Bool
  deriving DecidableEq, Repr

/-- The real-time clock: the stored offset as days and seconds (R41, R103), the overflow flag (R104), and the number of
wall-clock draws made so far (the model's own counter, log 11). -/
structure Rtc where
  dayBase : Int
  secOffset : Int
  overflow : Bool
  draws : Nat
  deriving DecidableEq, Repr

/-! ## Video -/

/-- The output buffer (R347): the colour every unlisted pixel has, and the pixels that differ, in the canonical form of
`Sparse`. Pixel `x` of line `y` has index `160 * y + x`. -/
structure Frame where
  base : Rgba
  cells : List (Nat × Rgba)
  deriving DecidableEq, Repr

/-- The video unit's own state (R335); its registers are cells of the register block. -/
structure Video where
  dot : Nat
  ly : Nat
  winLine : Nat
  /-- A window pixel has been produced on this line (R339). -/
  winDrawn : Bool
  /-- The OAM indices listed for this line (R337). -/
  sprites : List Nat
  /-- The first 160-entry scratch buffer of R42: the background priority bit of each column (log 22). -/
  bgPriority : BitVec 160
  /-- The second: the "something was drawn" bit of each column, set where the background pixel is not 0 (log 22). -/
  bgDrawn : BitVec 160
  frame : Frame
  deriving DecidableEq, Repr

/-! ## Audio -/

/-- What every channel has: enabled bit, 32-bit period counter, phase of the channel's width, length counter (R350). -/
structure Channel (w : Nat) where
  on : Bool
  timer : BitVec 32
  phase : BitVec w
  length : Nat
  deriving DecidableEq, Repr

/-- An envelope: current volume and step counter (R350); the configured period and direction are bits of `NRx2` (log 18). -/
structure Envelope where
  vol : BitVec 4
  count : Nat
  deriving DecidableEq, Repr

/-- Channel 1's sweep: shadow period and step counter (R350). -/
structure Sweep where
  shadow : BitVec 11
  count : Nat
  deriving DecidableEq, Repr

/-- The audio unit (R350 to R356): master enable (`NR52[7]`), frame-sequencer counter, the four channels (two pulse, wave,
noise), and the stereo pairs (left, right): those of this frame call, newest first, and the buffer of the last (log 19). -/
structure Audio where
  master : Bool
  fs : BitVec 14
  ch1 : Channel 3
  env1 : Envelope
  sweep : Sweep
  ch2 : Channel 3
  env2 : Envelope
  ch3 : Channel 5
  ch4 : Channel 15
  env4 : Envelope
  pairs : List (Nat × Nat)
  out : List (Nat × Nat)
  deriving DecidableEq, Repr

/-- The session's position: tick within the frame (R356, R358) and number of the next frame (log 10). -/
structure Session where
  frameTick : Nat
  frameNo : Nat
  deriving DecidableEq, Repr

/-! ## The whole state -/

/-- All byte arrays of the machine in one list of (key, byte), key = bank * 0x10000 + window address (Machine/Memory.lean). -/
abbrev Memory := List Host.Cell

/-- The machine. -/
structure State where
  cfg : Params
  cpu : Cpu
  /-- `IF` (R30). -/
  iflag : BitVec 5
  /-- `IE` (R31). -/
  ie : Byte
  mem : Memory
  bootMapped : Bool
  mbc : Mbc
  rtc : Rtc
  timer : Timer
  dma : OamDma
  hdma : Hdma
  joy : Joypad
  video : Video
  audio : Audio
  session : Session
  deriving DecidableEq, Repr

/-! ## Why the machine stops -/

/-- Faults: there is none. "Every per-tick operation is total" and no synchronous exception exists (R300, R387), so no
constructor stands here and no step can answer a fault (safe: the spec has no fault state, 93_implementation_defined.md). -/
inductive Fault where
  deriving DecidableEq, Repr

/-- Refusals. A step raises none of them; construction refuses what the spec refuses (R105, R106, R376). -/
inductive Refusal where
  /-- An arm of `exec` whose instruction has no meaning yet. Safe: the machine stops. No arm raises it. -/
  | notModelled (mnemonic : String)
  /-- Construction: an unrecognised cartridge header type (R105). Safe: no machine exists. -/
  | unknownHeaderType
  /-- Construction: a camera, HuC3, TAMA5 or MMM1 cartridge, refused by name (R106, U20). Safe: no machine exists. -/
  | noOpMapper (name : String)
  /-- Construction: the image is shorter than the header declares (R105). Safe: no machine exists. -/
  | imageTooShort
  /-- Construction: an unsupported RAM-size code (R105). Safe: no machine exists. -/
  | unsupportedRamSize
  /-- Construction: a boot ROM buffer of neither fixed size (R376). Safe: no machine exists. -/
  | bootRomSize
  deriving DecidableEq, Repr

/-! ## Reset -/

/-- The values R371 leaves unspecified, as the launch supplies them. -/
structure Init where
  a : Byte
  f : Flags
  b : Byte
  c : Byte
  d : Byte
  e : Byte
  h : Byte
  l : Byte
  sp : Word
  /-- Used only without a boot ROM (70_reset_and_hazards.md rule R373). -/
  pc : Word
  /-- The images (boot ROM, cartridge ROM and RAM) and the contents of every array and of every register the reset table
  does not fix. -/
  mem : Memory
  rtcDayBase : Int
  rtcSecOffset : Int
  rtcOverflow : Bool
  oamDmaSrc : Word
  /-- `HDMA1` to `HDMA5`: source, destination, remaining blocks, and whether a transfer is active. -/
  hdmaSrc : Word
  hdmaDst : Word
  hdmaRemaining : BitVec 7
  hdmaActive : Bool
  /-- The phases of channels 1 to 3 and the noise register. -/
  phase1 : BitVec 3
  phase2 : BitVec 3
  phase3 : BitVec 5
  lfsr : BitVec 15
  /-- The envelope volumes of channels 1, 2 and 4, and the sweep's shadow period. -/
  vol1 : BitVec 4
  vol2 : BitVec 4
  vol4 : BitVec 4
  sweepShadow : BitVec 11
  deriving DecidableEq, Repr

/-- The key of a cell of the register block. -/
def ioKey (r : IoReg) : Nat := 0xFF00 + r.offset

/-- The registers of the block whose reset value the table of R44 gives, all of it 0: timer count, modulo and control; `LCDC`;
`STAT`. -/
def resetRegs : List IoReg := [.tima, .tma, .tac, .lcdc, .stat]

/-- The bits of a cell that the table of R44 leaves to the launch. Of the bank selectors it gives the banks alone, video RAM bank 0
and work RAM bank 1: bit 0 of `VBK` is 0 and `SVBK[2:0]` is 0 or 1 (R68, R70), and the rest of both is the launch's. -/
def launchBits (k : Nat) : Byte :=
  if (resetRegs.map ioKey).contains k then 0x00
  else if k = ioKey .vbk then 0xFE
  else if k = ioKey .svbk then 0xF9
  else 0xFF

/-- A cell at construction: what the launch leaves in it, listed unless that is what an unlisted cell reads as. -/
def resetCell (c : Host.Cell) : Option Host.Cell :=
  let b := launchBits c.1
  if b = 0xFF then some c
  else if c.2 &&& b = 0x00 then none
  else some (c.1, c.2 &&& b)

/-- The launch's memory with what the reset table gives. -/
def resetMemory (m : Memory) : Memory := m.filterMap resetCell

/-- The values the model names where the spec gives none: zero registers (log 2) and a memory with nothing listed (log 3,
log 4). -/
def Init.default : Init where
  a := 0
  f := ⟨false, false, false, false⟩
  b := 0
  c := 0
  d := 0
  e := 0
  h := 0
  l := 0
  sp := 0
  pc := 0
  mem := []
  rtcDayBase := 0
  rtcSecOffset := 0
  rtcOverflow := false
  oamDmaSrc := 0
  hdmaSrc := 0
  hdmaDst := 0
  hdmaRemaining := 0
  hdmaActive := false
  phase1 := 0
  phase2 := 0
  phase3 := 0
  lfsr := 0
  vol1 := 0
  vol2 := 0
  vol4 := 0
  sweepShadow := 0

/-- The state after construction: the reset table of R44, with the launch's parameters and its values for what the table
leaves unspecified. -/
def resetWith (p : Params) (v : Init) : State where
  cfg := p
  cpu :=
    { a := v.a, f := v.f, b := v.b, c := v.c, d := v.d, e := v.e, h := v.h, l := v.l, sp := v.sp
      pc := if p.boot = .absent then v.pc else 0
      ime := false, eiDelay := 0, halted := false, stopped := false
      cur := none, ustep := 0, dur := 0, nextInt := none }
  iflag := 0
  ie := 0
  mem := resetMemory v.mem
  bootMapped := p.boot ≠ .absent
  mbc := { ramEn := false, romBank := 1, bankHi := 0, ramSel := 0, mode := false }
  rtc := { dayBase := v.rtcDayBase, secOffset := v.rtcSecOffset, overflow := v.rtcOverflow, draws := 0 }
  timer := { div16 := 0, tinPrev := false, reloadPending := false }
  dma := { src := v.oamDmaSrc, left := 0 }
  hdma := { src := v.hdmaSrc, dst := v.hdmaDst, remaining := v.hdmaRemaining, active := v.hdmaActive, stall := 0 }
  joy := { mask := 0, select := 3, lines := 0xF }
  video :=
    { dot := 0, ly := 0, winLine := 0, winDrawn := false, sprites := [], bgPriority := 0, bgDrawn := 0
      frame := { base := p.blankRgba, cells := [] } }
  audio :=
    { master := false, fs := 0
      ch1 := ⟨false, 0, v.phase1, 0⟩, env1 := ⟨v.vol1, 0⟩, sweep := ⟨v.sweepShadow, 0⟩
      ch2 := ⟨false, 0, v.phase2, 0⟩, env2 := ⟨v.vol2, 0⟩
      ch3 := ⟨false, 0, v.phase3, 0⟩
      ch4 := ⟨false, 0, v.lfsr, 0⟩, env4 := ⟨v.vol4, 0⟩
      pairs := [], out := [] }
  session := { frameTick := 0, frameNo := 0 }

/-- The machine right after reset (R44, R371, R372), for the launch of log 1. -/
def State.reset : State := resetWith Params.default Init.default

end Sys2Proof.Machine
end

