-- ==== Sys2Proof/Machine/Memory.lean ====
section
/-! DEFINITION. Byte arrays as one canonical list: reading and writing a cell, the canonical form, and the keys of every array
of the machine (10_state.md rules R39, R41; 20_memory.md rules R64 to R76). -/

namespace Sys2Proof.Machine

/-! ## Canonical lists

A list of (key, value) pairs in which every key that is not listed has the default value `dflt`. Writing removes what the key
had and lists the new value in key order, or not at all when it is the default. -/

/-- The value of key `k`. -/
def Sparse.get {w : Nat} (dflt : BitVec w) : List (Nat × BitVec w) → Nat → BitVec w
  | [], _ => dflt
  | (k', v) :: rest, k => if k' = k then v else Sparse.get dflt rest k

/-- Lists `(k, v)` before the first larger key. -/
def Sparse.insert {w : Nat} (k : Nat) (v : BitVec w) : List (Nat × BitVec w) → List (Nat × BitVec w)
  | [] => [(k, v)]
  | (k', v') :: rest => if k < k' then (k, v) :: (k', v') :: rest else (k', v') :: Sparse.insert k v rest

/-- Removes every entry of key `k`. -/
def Sparse.erase {w : Nat} (k : Nat) : List (Nat × BitVec w) → List (Nat × BitVec w)
  | [] => []
  | (k', v') :: rest => if k' = k then Sparse.erase k rest else (k', v') :: Sparse.erase k rest

/-- Gives key `k` the value `v`. -/
def Sparse.set {w : Nat} (dflt : BitVec w) (m : List (Nat × BitVec w)) (k : Nat) (v : BitVec w) : List (Nat × BitVec w) :=
  if v = dflt then Sparse.erase k m else Sparse.insert k v (Sparse.erase k m)

/-- The canonical form: keys strictly rising, no entry equal to the default. -/
abbrev Sparse.wf {w : Nat} (dflt : BitVec w) (m : List (Nat × BitVec w)) : Prop :=
  m.Pairwise (fun p q => p.1 < q.1) ∧ ∀ p ∈ m, p.2 ≠ dflt

/-- What a byte that is not listed reads as: 0x00 (DESIGN CHOICE, log 3; the spec leaves the contents of every array
unspecified at reset). -/
def Memory.unlisted : Byte := 0x00

/-- The canonical form of memory. -/
abbrev Memory.wf (m : Memory) : Prop := Sparse.wf Memory.unlisted m

/-- The byte at a key. -/
def Memory.get (m : Memory) (k : Nat) : Byte := Sparse.get Memory.unlisted m k

/-- Memory with a byte stored at a key. -/
def Memory.set (m : Memory) (k : Nat) (v : Byte) : Memory := Sparse.set Memory.unlisted m k v

/-- Memory with the bytes of an image stored at the keys `key i`, `i` counted from `start`. -/
def Memory.load (key : Nat → Nat) (m : Memory) : Nat → List Byte → Memory
  | _, [] => m
  | i, v :: rest => Memory.load key (m.set (key i) v) (i + 1) rest

/-! ## Keys: bank * 0x10000 + window address

The windows of the arrays are disjoint, so two arrays never share a key. -/

/-- Byte `off` of the cartridge ROM image, in the switchable window of its bank (R66, R95). -/
def romKey (off : Nat) : Nat := off / 0x4000 * 0x10000 + 0x4000 + off % 0x4000

/-- Byte `i` of the boot ROM image (R65). -/
def bootKey (i : Nat) : Nat := 0x1000 * 0x10000 + i

/-- Video RAM: window address `n` in 0x8000 to 0x9FFF, bank 0 or 1 (R68). -/
def vramKey (bank n : Nat) : Nat := bank * 0x10000 + n

/-- Cartridge RAM: window address `n` in 0xA000 to 0xBFFF (R102). -/
def cartRamKey (bank n : Nat) : Nat := bank * 0x10000 + n

/-- Work RAM: window address `n` in 0xC000 to 0xDFFF (R70). -/
def wramKey (bank n : Nat) : Nat := bank * 0x10000 + n

/-- Object-attribute memory, byte `i` of 160 (R72). -/
def oamKey (i : Nat) : Nat := 0xFE00 + i

/-- Background palette RAM, byte `i` of 64 (60_exceptions.md rule R345). -/
def bgPalKey (i : Nat) : Nat := 0x1001 * 0x10000 + i

/-- Sprite palette RAM, byte `i` of 64 (R345). -/
def objPalKey (i : Nat) : Nat := 0x1001 * 0x10000 + 0x40 + i

/-! ## Cells of the state -/

/-- The byte stored at a key. -/
def State.cell (s : State) (k : Nat) : Byte := s.mem.get k

/-- The state with a byte stored at a key. -/
def State.setCell (s : State) (k : Nat) (v : Byte) : State := { s with mem := s.mem.set k v }

/-- The stored byte of a register of the block (R74); registers a rule gives a home of their own have no use of it. -/
def State.io (s : State) (r : IoReg) : Byte := s.cell (ioKey r)

/-- Stores a register of the block. -/
def State.setIo (s : State) (r : IoReg) (v : Byte) : State := s.setCell (ioKey r) v

/-- Bit `i` of a byte. -/
def bit (v : Byte) (i : Nat) : Bool := v.getLsbD i

/-- A bit as a number. -/
def bitNat (b : Bool) : Nat := if b then 1 else 0

/-- The number of an interrupt source (60_exceptions.md rule R301). -/
def Irq.index : Irq → Nat
  | .vblank => 0
  | .stat => 1
  | .timer => 2
  | .serial => 3
  | .joypad => 4

/-- The bit of an interrupt source in `IF` and `IE` (R301). -/
def Irq.mask (q : Irq) : BitVec 5 := 1 <<< q.index

/-- A source sets its request bit; a bit already set stays set (R302). -/
def State.request (s : State) (q : Irq) : State := { s with iflag := s.iflag ||| q.mask }

/-- A source sets its request bit when `b` holds. -/
def State.requestIf (s : State) (b : Bool) (q : Irq) : State := if b then s.request q else s

/-- `IO_READ_OR` of a register (R86). -/
def State.readOr (s : State) (r : IoReg) : Byte := (s.cfg.ioReadOr.lookup r).getD 0x00

/-- `IO_WRITE_MASK` of a register (R86). -/
def State.writeMask (s : State) (r : IoReg) : Byte := (s.cfg.ioWriteMask.lookup r).getD 0xFF

/-- What a write of `v` leaves in a byte that held `old`: `(old & ~mask) | (v & mask)` (R74). -/
def mergeMask (mask old v : Byte) : Byte := (old &&& ~~~mask) ||| (v &&& mask)

end Sys2Proof.Machine
end

