-- ==== Sys2Proof/Machine/Audio.lean ====
section
/-! DEFINITION. The audio unit (60_exceptions.md rules R350 to R356): channel models, frame sequencer, triggers, mixing and the
sample buffer. -/

namespace Sys2Proof.Machine

/-! ## Register fields -/

/-- The 11-bit period value `f` of a channel: period high ++ period low (20_memory.md rule R85). -/
def periodValue (lo hi : Byte) : BitVec 11 := hi.extractLsb' 0 3 ++ lo

/-- The period value of channel 1, 2 or 3. -/
def periodOf1 (s : State) : BitVec 11 := periodValue (s.io .nr13) (s.io .nr14)
def periodOf2 (s : State) : BitVec 11 := periodValue (s.io .nr23) (s.io .nr24)
def periodOf3 (s : State) : BitVec 11 := periodValue (s.io .nr33) (s.io .nr34)

/-- The envelope or sweep period and the initial volume (R85). -/
def envPeriod (nr2 : Byte) : Nat := nr2.toNat % 8
def envUp (nr2 : Byte) : Bool := bit nr2 3
def envInitial (nr2 : Byte) : BitVec 4 := nr2.extractLsb' 4 4
def sweepPeriod (nr10 : Byte) : Nat := nr10.toNat / 16 % 8
def sweepDown (nr10 : Byte) : Bool := bit nr10 3
def sweepShift (nr10 : Byte) : Nat := nr10.toNat % 8

/-! ## Period counters and phases (R353) -/

/-- The reload value of a pulse channel: `(2048 - f) * 4` ticks. -/
def pulseReload (f : BitVec 11) : BitVec 32 := BitVec.ofNat 32 ((2048 - f.toNat) * 4)

/-- The reload value of the wave channel: `(2048 - f) * 2` ticks. -/
def waveReload (f : BitVec 11) : BitVec 32 := BitVec.ofNat 32 ((2048 - f.toNat) * 2)

/-- The reload value of the noise channel: `(d == 0 ? 8 : 16 * d) << s`. -/
def noiseReload (nr43 : Byte) : BitVec 32 :=
  let d := nr43.toNat % 8
  BitVec.ofNat 32 ((if d = 0 then 8 else 16 * d) * 2 ^ (nr43.toNat / 16))

/-- One step of the noise register, 15 bits or, in narrow mode, 7. -/
def lfsrStep (narrow : Bool) (v : BitVec 15) : BitVec 15 :=
  let b := v.getLsbD 0 ^^ v.getLsbD 1
  let r := BitVec.ofBool b ++ v.extractLsb' 1 14
  if narrow then r.extractLsb' 7 8 ++ BitVec.ofBool b ++ r.extractLsb' 0 6 else r

/-- One tick of a channel: if enabled, the counter counts down; at 0 it takes `reload` and the phase advances. -/
def channelTick {w : Nat} (reload : BitVec 32) (advance : BitVec w → BitVec w) (ch : Channel w) : Channel w :=
  if ch.on then
    if ch.timer.toNat ≤ 1 then { ch with timer := reload, phase := advance ch.phase }
    else { ch with timer := ch.timer - 1 }
  else ch

/-- All four channels advance by one tick. -/
def channelsTick (s : State) : State :=
  { s with audio := { s.audio with
      ch1 := channelTick (pulseReload (periodOf1 s)) (· + 1) s.audio.ch1
      ch2 := channelTick (pulseReload (periodOf2 s)) (· + 1) s.audio.ch2
      ch3 := channelTick (waveReload (periodOf3 s)) (· + 1) s.audio.ch3
      ch4 := channelTick (noiseReload (s.io .nr43)) (lfsrStep (bit (s.io .nr43) 3)) s.audio.ch4 } }

/-! ## Frame sequencer (R351, R352) -/

/-- A length step: the counter counts down while length-limiting is enabled and it is not 0; on reaching 0 it clears the
channel's enabled bit. -/
def lengthTick {w : Nat} (enabled : Bool) (ch : Channel w) : Channel w :=
  if enabled && decide (0 < ch.length) then
    { ch with length := ch.length - 1, on := ch.on && decide (ch.length ≠ 1) }
  else ch

/-- The length step of all four channels. -/
def lengthStep (s : State) : State :=
  { s with audio := { s.audio with
      ch1 := lengthTick (bit (s.io .nr14) 6) s.audio.ch1
      ch2 := lengthTick (bit (s.io .nr24) 6) s.audio.ch2
      ch3 := lengthTick (bit (s.io .nr34) 6) s.audio.ch3
      ch4 := lengthTick (bit (s.io .nr44) 6) s.audio.ch4 } }

/-- The volume after a step in the configured direction; it never leaves 0 to 15. -/
def volumeStep (up : Bool) (v : BitVec 4) : BitVec 4 :=
  if up then (if v = 15 then v else v + 1) else (if v = 0 then v else v - 1)

/-- Whether an envelope step does something: the period is not 0 and the step counter expires. -/
def envelopeFires (nr2 : Byte) (env : Envelope) : Bool := decide (envPeriod nr2 ≠ 0) && decide (env.count ≤ 1)

/-- An envelope step: when the counter expires it takes the period again and the volume steps (R352). -/
def envelopeTick (nr2 : Byte) (env : Envelope) : Envelope :=
  if envPeriod nr2 = 0 then env
  else if env.count ≤ 1 then { vol := volumeStep (envUp nr2) env.vol, count := envPeriod nr2 }
  else { env with count := env.count - 1 }

/-- Whether an envelope step decays the volume to zero, which clears the channel's enabled bit (decreasing direction only). -/
def envelopeDecays (nr2 : Byte) (env : Envelope) : Bool :=
  envelopeFires nr2 env && !envUp nr2 && decide (env.vol = 1)

/-- A channel whose envelope decayed to zero is disabled. -/
def disableIf {w : Nat} (b : Bool) (ch : Channel w) : Channel w := { ch with on := ch.on && !b }

/-- The envelope step of channels 1, 2 and 4. -/
def envelopeStep (s : State) : State :=
  { s with audio := { s.audio with
      env1 := envelopeTick (s.io .nr12) s.audio.env1
      ch1 := disableIf (envelopeDecays (s.io .nr12) s.audio.env1) s.audio.ch1
      env2 := envelopeTick (s.io .nr22) s.audio.env2
      ch2 := disableIf (envelopeDecays (s.io .nr22) s.audio.env2) s.audio.ch2
      env4 := envelopeTick (s.io .nr42) s.audio.env4
      ch4 := disableIf (envelopeDecays (s.io .nr42) s.audio.env4) s.audio.ch4 } }

/-- The new period the sweep computes: `shadow` plus or minus `shadow >> shift` (R353). -/
def sweepTarget (nr10 : Byte) (shadow : BitVec 11) : Nat :=
  let dv := shadow.toNat / 2 ^ sweepShift nr10
  if sweepDown nr10 then shadow.toNat - dv else shadow.toNat + dv

/-- Stores an 11-bit period value in the period fields of channel 1. -/
def setPeriod1 (f : BitVec 11) (s : State) : State :=
  (s.setIo .nr13 (f.extractLsb' 0 8)).setIo .nr14 ((s.io .nr14).extractLsb' 3 5 ++ f.extractLsb' 8 3)

/-- What the sweep does when its counter expires (R353): beyond 2047 it disables channel 1; otherwise, with a shift, the new
period becomes the shadow and the period value. -/
def sweepFire (s : State) : State :=
  let nr10 := s.io .nr10
  let nf := sweepTarget nr10 s.audio.sweep.shadow
  if 2047 < nf then { s with audio := { s.audio with ch1 := disableIf true s.audio.ch1 } }
  else if sweepShift nr10 ≠ 0 then
    setPeriod1 (BitVec.ofNat 11 nf)
      { s with audio := { s.audio with sweep := { s.audio.sweep with shadow := BitVec.ofNat 11 nf } } }
  else s

/-- The sweep step of channel 1. -/
def sweepStep (s : State) : State :=
  let p := sweepPeriod (s.io .nr10)
  if p = 0 then s
  else if s.audio.sweep.count ≤ 1 then
    sweepFire { s with audio := { s.audio with sweep := { s.audio.sweep with count := p } } }
  else { s with audio := { s.audio with sweep := { s.audio.sweep with count := s.audio.sweep.count - 1 } } }

/-- Runs `f` on the ticks a divisor selects. -/
def onDivisor (dv : Nat) (f : State → State) (s : State) : State :=
  if s.audio.fs.toNat % dv = 0 then f s else s

/-- The frame sequencer's tick (R351): length, sweep and envelope steps on their divisors, then the counter, modulo 16384,
advances. -/
def sequencerTick (s : State) : State :=
  let s1 := onDivisor s.cfg.lenDiv lengthStep s
  let s2 := onDivisor s.cfg.sweepDiv sweepStep s1
  let s3 := onDivisor Config.frameSeqPeriod envelopeStep s2
  { s3 with audio := { s3.audio with fs := s3.audio.fs + 1 } }

/-! ## Triggers (20_memory.md rule R79, 60_exceptions.md rule R354) -/

/-- A length counter that is 0 takes its full value at a trigger. -/
def triggerLength (full n : Nat) : Nat := if n = 0 then full else n

/-- The envelope after a trigger. -/
def triggerEnvelope (nr2 : Byte) : Envelope := { vol := envInitial nr2, count := envPeriod nr2 }

/-- Trigger of channel 1. -/
def trigger1 (s : State) : State :=
  { s with audio := { s.audio with
      ch1 := { s.audio.ch1 with
        on := true, timer := pulseReload (periodOf1 s), length := triggerLength 64 s.audio.ch1.length }
      env1 := triggerEnvelope (s.io .nr12)
      sweep := { shadow := periodOf1 s, count := sweepPeriod (s.io .nr10) } } }

/-- Trigger of channel 2. -/
def trigger2 (s : State) : State :=
  { s with audio := { s.audio with
      ch2 := { s.audio.ch2 with
        on := true, timer := pulseReload (periodOf2 s), length := triggerLength 64 s.audio.ch2.length }
      env2 := triggerEnvelope (s.io .nr22) } }

/-- Trigger of channel 3. -/
def trigger3 (s : State) : State :=
  { s with audio := { s.audio with
      ch3 := { s.audio.ch3 with
        on := true, timer := waveReload (periodOf3 s), length := triggerLength 256 s.audio.ch3.length } } }

/-- Trigger of channel 4. -/
def trigger4 (s : State) : State :=
  { s with audio := { s.audio with
      ch4 := { s.audio.ch4 with
        on := true, timer := noiseReload (s.io .nr43), phase := 0x7FFF
        length := triggerLength 64 s.audio.ch4.length }
      env4 := triggerEnvelope (s.io .nr42) } }

/-! ## Length loads (R85: "length load"; log 16) -/

/-- A write of a length-load field loads the length counter with what is left of the full length. -/
def loadLength1 (v : Byte) (s : State) : State :=
  { s with audio := { s.audio with ch1 := { s.audio.ch1 with length := 64 - v.toNat % 64 } } }
def loadLength2 (v : Byte) (s : State) : State :=
  { s with audio := { s.audio with ch2 := { s.audio.ch2 with length := 64 - v.toNat % 64 } } }
def loadLength3 (v : Byte) (s : State) : State :=
  { s with audio := { s.audio with ch3 := { s.audio.ch3 with length := 256 - v.toNat } } }
def loadLength4 (v : Byte) (s : State) : State :=
  { s with audio := { s.audio with ch4 := { s.audio.ch4 with length := 64 - v.toNat % 64 } } }

/-! ## Channel outputs and the mix (R353, R355) -/

/-- `DUTY[duty]`; the leftmost digit of a row is phase 0 (log 18). -/
def dutyRow (duty : BitVec 2) : BitVec 8 :=
  if duty = 0 then 0b00000001 else if duty = 1 then 0b10000001 else if duty = 2 then 0b10000111 else 0b01111110

/-- A pulse channel's sample: the volume where the duty row has a 1. -/
def pulseOut (nr1 : Byte) (ch : Channel 3) (env : Envelope) : Nat :=
  if (dutyRow (nr1.extractLsb' 6 2)).getLsbD (7 - ch.phase.toNat) then env.vol.toNat else 0

/-- Sample `i` of wave RAM, high nibble first. -/
def waveSample (s : State) (i : BitVec 5) : Nat :=
  let v := s.io (.wave (i.extractLsb' 1 4))
  if i.getLsbD 0 then v.toNat % 16 else v.toNat / 16

/-- The wave channel's sample: shifted right by 4, 0, 1 or 2. -/
def waveOut (s : State) : Nat :=
  let code := (s.io .nr32).extractLsb' 5 2
  let n := waveSample s s.audio.ch3.phase
  if code = 0 then n / 16 else if code = 1 then n else if code = 2 then n / 2 else n / 4

/-- The noise channel's sample: the volume while bit 0 of the register is 0. -/
def noiseOut (ch : Channel 15) (env : Envelope) : Nat := if ch.phase.getLsbD 0 then 0 else env.vol.toNat

/-- A channel's contribution to a side: its sample if it is enabled and routed there. -/
def routed (on pan : Bool) (sample : Nat) : Nat := if on && pan then sample else 0

/-- The sum of a side, `side` = 4 for left and 0 for right: bit `side + n - 1` of `NR51` routes channel `n` (R355). -/
def sideSum (s : State) (side : Nat) : Nat :=
  routed s.audio.ch1.on (bit (s.io .nr51) side) (pulseOut (s.io .nr11) s.audio.ch1 s.audio.env1) +
  routed s.audio.ch2.on (bit (s.io .nr51) (side + 1)) (pulseOut (s.io .nr21) s.audio.ch2 s.audio.env2) +
  routed s.audio.ch3.on (bit (s.io .nr51) (side + 2)) (waveOut s) +
  routed s.audio.ch4.on (bit (s.io .nr51) (side + 3)) (noiseOut s.audio.ch4 s.audio.env4)

/-- Left: scaled by `NR50[6:4]`, divided by 7; 0 while the audio master is off. -/
def mixLeft (s : State) : Nat :=
  if s.audio.master then sideSum s 4 * ((s.io .nr50).toNat / 16 % 8) / 7 else 0

/-- Right: scaled by `NR50[2:0]`, divided by 7; 0 while the audio master is off. -/
def mixRight (s : State) : Nat :=
  if s.audio.master then sideSum s 0 * ((s.io .nr50).toNat % 8) / 7 else 0

/-! ## Sample cadence (R356) -/

/-- `a / b`, rounded up. -/
def ceilDiv (a b : Nat) : Nat := (a + b - 1) / b

/-- How many of the frame's pairs are taken on tick `t`: those `k` with `(k * TICKS_PER_FRAME) div SAMPLES_PER_FRAME = t`. -/
def pairsAt (spf t : Nat) : Nat :=
  ceilDiv ((t + 1) * spf) Config.ticksPerFrame - ceilDiv (t * spf) Config.ticksPerFrame

/-- The pairs of this tick, in front of the earlier ones. -/
def sampleTick (s : State) : State :=
  { s with audio := { s.audio with
      pairs := List.replicate (pairsAt s.cfg.samplesPerFrame s.session.frameTick) (mixLeft s, mixRight s) ++
        s.audio.pairs } }

/-- The audio step of a tick: frame sequencer, channels, sample. -/
def audioStep (s : State) : State := sampleTick (channelsTick (sequencerTick s))

/-- The fixed-size buffer of stereo pairs as it stands (R43): the pairs of this frame call in order, then what the last buffer
holds after them, then silence where nothing has ever been written (log 19). -/
def bufferPairs (s : State) : List (Nat × Nat) :=
  (s.audio.pairs.reverse ++ s.audio.out.drop s.audio.pairs.length ++ List.replicate s.cfg.samplesPerFrame (0, 0)).take
    s.cfg.samplesPerFrame

/-- That buffer interleaved: left first, each value in the launch's sample format (R356, log 19). -/
def sampleBuffer (s : State) : List Int :=
  (bufferPairs s).flatMap (fun p => [Config.sampleFormat p.1, Config.sampleFormat p.2])

end Sys2Proof.Machine
end

