-- ==== Sys2Proof/Machine/BankController.lean ====
section
/-! DEFINITION. The bank controller (20_memory.md rules R95 to R107): its registers, what a ROM or external-RAM address
resolves to, and the real-time clock. -/

namespace Sys2Proof.Machine

/-! ## ROM -/

/-- The bank seen at 0x4000 to 0x7FFF before the reduction of R101 (R96 to R99). -/
def selectedRomBank (s : State) : Nat :=
  match s.cfg.mbc with
  | .noBanking => 1
  | .mbc1 => if s.mbc.mode then s.mbc.romBank.toNat else s.mbc.bankHi.toNat * 32 + s.mbc.romBank.toNat
  | .mbc3 _ => s.mbc.romBank.toNat
  | .mbc5 => s.mbc.romBank.toNat

/-- The resolved bank at 0x4000 to 0x7FFF: a number beyond the image's bank count is reduced modulo `NB` (R101); without
banking the address itself is the offset (R96). -/
def romBankHigh (s : State) : Nat :=
  match s.cfg.mbc with
  | .noBanking => 1
  | _ => selectedRomBank s % s.cfg.romBanks

/-- The offset in the image of an address in 0x0000 to 0x7FFF: bank 0 below 0x4000, the resolved bank above. -/
def romOffset (s : State) (n : Nat) : Nat :=
  if n < 0x4000 then n else romBankHigh s * 0x4000 + (n - 0x4000)

/-- The key of a cartridge ROM address, or none beyond the image (R66). -/
def romPlace (s : State) (n : Nat) : Option Nat :=
  let off := romOffset s n
  if off < s.cfg.romSize then some (romKey off) else none

/-- Whether an address lies in the boot ROM image's overlay (R65). -/
def inBootOverlay (b : BootRom) (n : Nat) : Bool :=
  match b with
  | .absent => false
  | .bytes256 => n < 0x100
  | .bytes2304 => n < 0x100 || (0x200 ≤ n && n < 0x900)

/-! ## Control writes -/

/-- RAM (and RTC) enable: the low nibble 0x0A sets the latch, any other clears it (R97; the same test for R98 and R99). -/
def isRamEnable (v : Byte) : Bool := v &&& 0x0F = 0x0A

/-- A bank number with zero forced to one (R97, R98, R100). -/
def forceOne (v : BitVec 9) : BitVec 9 := if v = 0 then 1 else v

/-- A control write to MBC1 at address `n` (R97). -/
def mbc1Write (n : Nat) (v : Byte) (m : Mbc) : Mbc :=
  if n < 0x2000 then { m with ramEn := isRamEnable v }
  else if n < 0x4000 then { m with romBank := forceOne ((v &&& 0x1F).zeroExtend 9) }
  else if n < 0x6000 then { m with bankHi := v.extractLsb' 0 2 }
  else { m with mode := bit v 0 }

/-- A control write to MBC3 at address `n` (R98). The clock latch at 0x6000 to 0x7FFF changes nothing: every register is
computed on every read (R103; log 13). -/
def mbc3Write (n : Nat) (v : Byte) (m : Mbc) : Mbc :=
  if n < 0x2000 then { m with ramEn := isRamEnable v }
  else if n < 0x4000 then { m with romBank := forceOne ((v &&& 0x7F).zeroExtend 9) }
  else if n < 0x6000 then { m with ramSel := v }
  else m

/-- A control write to MBC5 at address `n` (R99). No register answers at 0x6000 to 0x7FFF. -/
def mbc5Write (n : Nat) (v : Byte) (m : Mbc) : Mbc :=
  if n < 0x2000 then { m with ramEn := isRamEnable v }
  else if n < 0x3000 then { m with romBank := m.romBank.extractLsb' 8 1 ++ v }
  else if n < 0x4000 then { m with romBank := v.extractLsb' 0 1 ++ m.romBank.extractLsb' 0 8 }
  else if n < 0x6000 then { m with ramSel := v &&& 0x0F }
  else m

/-- A write to 0x0000 to 0x7FFF goes to the bank controller and never changes ROM (R67). -/
def mbcWrite (n : Nat) (v : Byte) (s : State) : State :=
  match s.cfg.mbc with
  | .noBanking => s
  | .mbc1 => { s with mbc := mbc1Write n v s.mbc }
  | .mbc3 _ => { s with mbc := mbc3Write n v s.mbc }
  | .mbc5 => { s with mbc := mbc5Write n v s.mbc }

/-! ## External RAM window -/

/-- The five clock registers, in the order of the select values 0x08 to 0x0C (R98). -/
inductive RtcReg where
  | seconds | minutes | hours | dayLow | dayHigh
  deriving DecidableEq, Repr

/-- What the external RAM window at 0xA000 to 0xBFFF is at the moment. -/
inductive ExtPlace where
  | ram (bank : Nat)
  | clock (r : RtcReg)
  | denied
  deriving DecidableEq, Repr

/-- The clock register an `ram_sel` value selects (R98). -/
def rtcRegOf (sel : Byte) : Option RtcReg :=
  if sel = 0x08 then some .seconds
  else if sel = 0x09 then some .minutes
  else if sel = 0x0A then some .hours
  else if sel = 0x0B then some .dayLow
  else if sel = 0x0C then some .dayHigh
  else none

/-- Bank `bank`, unless the header declares no such bank (R69, R102; banks are numbered from 0, log 14). -/
def ramBankOrDenied (s : State) (bank : Nat) : ExtPlace :=
  if bank < s.cfg.ramBanks then .ram bank else .denied

/-- The window's meaning (R96 to R99, R102): denied while the latch is false. -/
def extPlace (s : State) : ExtPlace :=
  if s.mbc.ramEn then
    match s.cfg.mbc with
    | .noBanking => ramBankOrDenied s 0
    | .mbc1 => ramBankOrDenied s (if s.mbc.mode then s.mbc.bankHi.toNat else 0)
    | .mbc3 rtc =>
      match rtcRegOf s.mbc.ramSel with
      | some r => if rtc then .clock r else ramBankOrDenied s s.mbc.ramSel.toNat
      | none => ramBankOrDenied s s.mbc.ramSel.toNat
    | .mbc5 => ramBankOrDenied s s.mbc.ramSel.toNat
  else .denied

/-! ## Real-time clock (R103, R104) -/

/-- `t = WALL_CLOCK() + offset` in seconds, at the draw the next access makes. -/
def rtcNow (s : State) : Int :=
  (Config.wallClock s.rtc.draws : Int) + s.rtc.dayBase * 86400 + s.rtc.secOffset

/-- `days = t div 86400`. -/
def rtcDays (t : Int) : Int := t / 86400

/-- The overflow flag as an access at time `t` finds it: set once the day count exceeds 511, and kept (R104). -/
def rtcOverflowAt (s : State) (t : Int) : Bool := s.rtc.overflow || decide (rtcDays t > 511)

/-- The value a clock register reads as at time `t`. Bits [6:1] of day-high are free (log 12). -/
def rtcValue (s : State) (r : RtcReg) : Byte :=
  let t := rtcNow s
  match r with
  | .seconds => BitVec.ofInt 8 (t % 60)
  | .minutes => BitVec.ofInt 8 (t / 60 % 60)
  | .hours => BitVec.ofInt 8 (t / 3600 % 24)
  | .dayLow => BitVec.ofInt 8 (rtcDays t)
  | .dayHigh =>
    BitVec.ofBool (rtcOverflowAt s t) ++ Config.rtcDayHighRest s.rtc.draws ++ BitVec.ofInt 1 (rtcDays t / 256)

/-- An access to the clock draws the wall clock once and latches the overflow flag it sees. -/
def rtcObserve (s : State) : State :=
  { s with rtc := { s.rtc with overflow := rtcOverflowAt s (rtcNow s), draws := s.rtc.draws + 1 } }

/-- The time after a write of `v` to a register at time `t`: the field written takes the value, the others keep theirs, so
that a read at the same time reconstructs it. A value outside the field's range leaves a free time (log 12). -/
def rtcTimeAfter (r : RtcReg) (v : Byte) (t : Int) (draw : Nat) : Int :=
  let n : Int := v.toNat
  match r with
  | .seconds => if v.toNat < 60 then t - t % 60 + n else Config.rtcOutOfRange draw
  | .minutes => if v.toNat < 60 then t - t / 60 % 60 * 60 + n * 60 else Config.rtcOutOfRange draw
  | .hours => if v.toNat < 24 then t - t / 3600 % 24 * 3600 + n * 3600 else Config.rtcOutOfRange draw
  | .dayLow => t - rtcDays t % 256 * 86400 + n * 86400
  | .dayHigh => t % 86400 + (rtcDays t % 256 + (if bit v 0 then 256 else 0)) * 86400

/-- A write to a clock register recomputes the stored offset (R103). Day-high bit 7 is the overflow flag (R104). -/
def rtcWrite (r : RtcReg) (v : Byte) (s : State) : State :=
  let t := rtcNow s
  let off := rtcTimeAfter r v t s.rtc.draws - (Config.wallClock s.rtc.draws : Int)
  let ov := match r with
    | .dayHigh => bit v 7
    | _ => rtcOverflowAt s t
  { s with rtc := { dayBase := off / 86400, secOffset := off % 86400, overflow := ov, draws := s.rtc.draws + 1 } }

end Sys2Proof.Machine
end

