-- ==== Sys2Proof/Machine/JoypadPort.lean ====
section
/-! DEFINITION. The joypad (60_exceptions.md rule R332). Buttons are numbered right, left, up, down, A, B, select, start. -/

namespace Sys2Proof.Machine

/-- Whether the mask of this frame reports button `i` pressed, under the layout the launch leaves OPEN (log 10). -/
def buttonIn (mask : BitVec 8) (i : Fin 8) : Bool := mask.getLsbD (Config.joypadLayout i)

/-- Whether a mask reports any button pressed (R313). -/
def anyButton (mask : BitVec 8) : Bool :=
  buttonIn mask 0 || buttonIn mask 1 || buttonIn mask 2 || buttonIn mask 3 ||
  buttonIn mask 4 || buttonIn mask 5 || buttonIn mask 6 || buttonIn mask 7

/-- A group's four lines, 0 for a pressed button: the group's buttons in bits 0 to 3, in order. -/
def groupLines (b0 b1 b2 b3 : Bool) : BitVec 4 :=
  BitVec.ofBool (!b3) ++ BitVec.ofBool (!b2) ++ BitVec.ofBool (!b1) ++ BitVec.ofBool (!b0)

/-- The lines of the direction group. -/
def directionLines (s : State) : BitVec 4 :=
  groupLines (buttonIn s.joy.mask 0) (buttonIn s.joy.mask 1) (buttonIn s.joy.mask 2) (buttonIn s.joy.mask 3)

/-- The lines of the action group. -/
def actionLines (s : State) : BitVec 4 :=
  groupLines (buttonIn s.joy.mask 4) (buttonIn s.joy.mask 5) (buttonIn s.joy.mask 6) (buttonIn s.joy.mask 7)

/-- `lines`: an unselected group reads all 1; both selected, the AND of the two. `P1[4]` = 0 selects the directions, `P1[5]` =
0 the actions. -/
def joypadLines (s : State) : BitVec 4 :=
  (if s.joy.select.getLsbD 0 then 0xF else directionLines s) &&&
  (if s.joy.select.getLsbD 1 then 0xF else actionLines s)

/-- A read of `P1`: `0xC0 | P1[5:4] | lines`. -/
def readP1 (s : State) : Byte := (3 : BitVec 2) ++ s.joy.select ++ joypadLines s

/-- The evaluation of the lines in the bus step: a line that goes from 1 to 0 requests the joypad interrupt. -/
def joypadStep (s : State) : State :=
  let now := joypadLines s
  let fell := s.joy.lines &&& ~~~now
  { s.requestIf (fell ≠ 0) .joypad with joy := { s.joy with lines := now } }

end Sys2Proof.Machine
end

