-- ==== Sys2Proof/Machine/Timer.lean ====
section
/-! DEFINITION. The timer inside the bus (60_exceptions.md rules R325 to R329). -/

namespace Sys2Proof.Machine

/-- The bit of `div16` that `TAC[1:0]` selects (R327). -/
def timerSelect (tac : Byte) : Nat :=
  match tac.toNat % 4 with
  | 0 => 9
  | 1 => 3
  | 2 => 5
  | _ => 7

/-- The timer input `tin = TAC[2] & div16[sel]` (R327). -/
def timerInput (s : State) : Bool :=
  bit (s.io .tac) 2 && s.timer.div16.getLsbD (timerSelect (s.io .tac))

/-- The reload that is due one tick after an overflow, with the interrupt request (R328). -/
def timerReload (s : State) : State :=
  if s.timer.reloadPending then
    { ((s.setIo .tima (s.io .tma)).request .timer) with timer := { s.timer with reloadPending := false } }
  else s

/-- `div16 <- u16(div16 + 1)` (R325). -/
def divStep (s : State) : State := { s with timer := { s.timer with div16 := s.timer.div16 + 1 } }

/-- `timer_increment` (R328). -/
def timerIncrement (s : State) : State :=
  if s.io .tima = 0xFF then
    { s.setIo .tima 0x00 with timer := { s.timer with reloadPending := true } }
  else s.setIo .tima (s.io .tima + 1)

/-- One increment on a 1 to 0 change of the input since the previous tick (R327). -/
def timerEdge (s : State) : State :=
  let tin := timerInput s
  let s' := if s.timer.tinPrev && !tin then timerIncrement s else s
  { s' with timer := { s'.timer with tinPrev := tin } }

/-- The timer's part of the bus step, in the order of R328: reload, count, edge. -/
def timerStep (s : State) : State := timerEdge (divStep (timerReload s))

end Sys2Proof.Machine
end

