-- ==== Sys2Proof/Machine/Bus.lean ====
section
/-! DEFINITION. The memory bus (20_memory.md rules R60 to R87): what an address resolves to, reads and writes with their side
effects, the OAM DMA restriction, and the DMA engines. -/

namespace Sys2Proof.Machine

/-! ## Address map (R64) -/

/-- What an address resolves to at the moment. -/
inductive Place where
  /-- ROM or its boot overlay, with the key of the stored byte if the image has one; a write goes to the bank controller. -/
  | rom (key : Option Nat)
  /-- A byte of a RAM array: video, work (and its echo), cartridge, object-attribute, high RAM. -/
  | ram (key : Nat)
  /-- A register of the cartridge's clock. -/
  | clock (r : RtcReg)
  /-- External RAM that is disabled or not there (R69). -/
  | denied
  /-- A register of the block (R74). -/
  | io (r : IoReg)
  /-- `IE` (R76). -/
  | ie
  /-- Unmapped (R73, R80). -/
  | absent
  deriving DecidableEq, Repr

/-- The register at an offset of the block, if R85 lists one. -/
def ioRegOf (off : Nat) : Option IoReg :=
  if 0x30 ≤ off ∧ off < 0x40 then some (.wave (BitVec.ofNat 4 off))
  else
    match IoReg.namedLow.find? (fun r => r.offset == off) with
    | some r => some r
    | none => IoReg.namedHigh.find? (fun r => r.offset == off)

/-- The register an address of the block reaches: none where R85 lists none, and none for a colour-only register outside colour
mode (R73, R80). -/
def ioRegAt (cgb : Bool) (off : Nat) : Option IoReg :=
  match ioRegOf off with
  | some r => if r.colourOnly && !cgb then none else some r
  | none => none

/-- `vram_bank`: bit 0 of `VBK` in colour mode, else 0 (R68). -/
def vramBank (s : State) : Nat := if s.cfg.cgb then (s.io .vbk).toNat % 2 else 0

/-- `wram_bank`: `SVBK[2:0]` in colour mode, 0 acting as 1; else 1 (R70). A number the machine has no bank for acts as 1
(log 26). -/
def wramBank (s : State) : Nat :=
  if s.cfg.cgb then
    let n := (s.io .svbk).toNat % 8
    if n = 0 ∨ s.cfg.wramBanks ≤ n then 1 else n
  else 1

/-- ROM with the boot overlay over it (R65, R66). -/
def romOrBoot (s : State) (n : Nat) : Option Nat :=
  if s.bootMapped && inBootOverlay s.cfg.boot n then some (bootKey n) else romPlace s n

/-- The external RAM window as a place (R69). -/
def extOf (s : State) (n : Nat) : Place :=
  match extPlace s with
  | .ram bank => .ram (cartRamKey bank n)
  | .clock r => .clock r
  | .denied => .denied

/-- The dispatch of R64. -/
def place (s : State) (a : Word) : Place :=
  let n := a.toNat
  if n < 0x8000 then .rom (romOrBoot s n)
  else if n < 0xA000 then .ram (vramKey (vramBank s) n)
  else if n < 0xC000 then extOf s n
  else if n < 0xD000 then .ram (wramKey 0 n)
  else if n < 0xE000 then .ram (wramKey (wramBank s) n)
  else if n < 0xF000 then .ram (wramKey 0 (n - 0x2000))
  else if n < 0xFE00 then .ram (wramKey (wramBank s) (n - 0x2000))
  else if n < 0xFEA0 then .ram (oamKey (n - 0xFE00))
  else if n < 0xFF00 then .absent
  else if n < 0xFF80 then
    match ioRegAt s.cfg.cgb (n - 0xFF00) with
    | some r => .io r
    | none => .absent
  else if n < 0xFFFF then .ram n
  else .ie

/-! ## Reads -/

/-- The index of a palette port (60_exceptions.md rule R345). -/
def palIndex (v : Byte) : Nat := v.toNat % 64

/-- `NR52` as stored: master enable in bit 7, the channels' enabled bits in bits 3 to 0. -/
def nr52Bits (a : Audio) : Byte :=
  BitVec.ofBool a.master ++ (0 : BitVec 3) ++ BitVec.ofBool a.ch4.on ++ BitVec.ofBool a.ch3.on ++
    BitVec.ofBool a.ch2.on ++ BitVec.ofBool a.ch1.on

/-- A read of a register: `stored | IO_READ_OR`, unless a rule gives a computed value (R74). -/
def ioRead (s : State) (r : IoReg) : Byte :=
  match r with
  | .p1 => readP1 s
  | .div => hiByte s.timer.div16
  | .intf => (7 : BitVec 3) ++ s.iflag
  | .nr52 => nr52Bits s.audio ||| s.readOr .nr52
  | .ly => BitVec.ofNat 8 s.video.ly
  | .dma => s.io .dma
  | .hdma1 => hiByte s.hdma.src ||| s.readOr .hdma1
  | .hdma2 => loByte s.hdma.src ||| s.readOr .hdma2
  | .hdma3 => hiByte s.hdma.dst ||| s.readOr .hdma3
  | .hdma4 => loByte s.hdma.dst ||| s.readOr .hdma4
  | .hdma5 => BitVec.ofBool (!s.hdma.active) ++ s.hdma.remaining
  | .bcpd => s.cell (bgPalKey (palIndex (s.io .bcps))) ||| s.readOr .bcpd
  | .ocpd => s.cell (objPalKey (palIndex (s.io .ocps))) ||| s.readOr .ocpd
  | r => s.io r ||| s.readOr r

/-- The byte the unrestricted decode returns. -/
def peek (s : State) (a : Word) : Byte :=
  match place s a with
  | .rom (some k) => s.cell k
  | .rom none => Config.openBus
  | .ram k => s.cell k
  | .clock r => rtcValue s r
  | .denied => Config.openBus
  | .io r => ioRead s r
  | .ie => s.ie
  | .absent => Config.unmapped

/-- The effect of a read: only the clock's registers have one (R87, R103). -/
def observe (s : State) (a : Word) : State :=
  match place s a with
  | .clock _ => rtcObserve s
  | _ => s

/-! ## HBlank and General DMA (R83, R84) -/

/-- Copies `n` bytes, the next being byte `k`, from `src` to the video RAM address `0x8000 | dst`. -/
def hdmaCopy (src dst : Word) : Nat → Nat → State → State
  | 0, _, s => s
  | n + 1, k, s =>
    let a := src + BitVec.ofNat 16 k
    let v := peek s a
    let s' := observe s a
    let d := 0x8000 + (dst.toNat + k) % 0x2000
    hdmaCopy src dst n (k + 1) (s'.setCell (vramKey (vramBank s') d) v)

/-- The source address: bits [3:0] are ignored. -/
def hdmaSrc (s : State) : Word := s.hdma.src &&& 0xFFF0

/-- The destination within video RAM: `dst & 0x1FF0`. -/
def hdmaDst (s : State) : Word := s.hdma.dst &&& 0x1FF0

/-- A General transfer of `(v[6:0] + 1) * 16` bytes at once, with the stall it imposes. -/
def generalDma (v : Byte) (s : State) : State :=
  let len := (v.toNat % 128 + 1) * 16
  let s' := hdmaCopy (hdmaSrc s) (hdmaDst s) len 0 s
  { s' with hdma := { s'.hdma with remaining := 0x7F, stall := s.cfg.gdmaTicksPerByte * len } }

/-- One block of an HBlank transfer: 16 bytes, the registers advance, the count goes down, or the transfer ends. DESIGN CHOICE
(log 15): R83 stands under "colour mode only" and R44 gives the active flag no reset value, so a flag that a launch leaves set in
monochrome mode is kept and serves nothing. -/
def hblankDma (s : State) : State :=
  if s.cfg.cgb && s.hdma.active then
    let s' := hdmaCopy (hdmaSrc s) (hdmaDst s) 16 0 s
    { s' with hdma :=
        { src := s.hdma.src + 16
          dst := s.hdma.dst + 16
          remaining := s.hdma.remaining - 1
          active := decide (s.hdma.remaining ≠ 0)
          stall := s.hdma.stall + s.cfg.gdmaTicksPerByte * 16 } }
  else s

/-- A write of `HDMA5`: start or restart an HBlank transfer, cancel one, or make a General transfer. -/
def hdma5Write (v : Byte) (s : State) : State :=
  if bit v 7 then { s with hdma := { s.hdma with remaining := v.extractLsb' 0 7, active := true } }
  else if s.hdma.active then { s with hdma := { s.hdma with active := false } }
  else generalDma v s

/-! ## Writes -/

/-- A plain write of a register: `(old & ~mask) | (v & mask)` (R74). -/
def storeIo (r : IoReg) (v : Byte) (s : State) : State := s.setIo r (mergeMask (s.writeMask r) (s.io r) v)

/-- The stored bits a write of `v` leaves in a palette index register after an access: bit 7 makes the index advance modulo
64 (R345). -/
def palAdvance (v : Byte) : Byte :=
  if bit v 7 then v.extractLsb' 6 2 ++ (v.extractLsb' 0 6 + 1) else v

/-- A write through a palette port, with the auto-increment. -/
def palWrite (idx : IoReg) (key : Nat) (port : IoReg) (v : Byte) (s : State) : State :=
  (s.setCell key (mergeMask (s.writeMask port) (s.cell key) v)).setIo idx (palAdvance (s.io idx))

/-- `P1[7:0]` as stored bits: only the selection has storage (60_exceptions.md rule R332). -/
def p1Stored (sel : BitVec 2) : Byte := (0 : BitVec 2) ++ sel ++ (0 : BitVec 4)

/-- The start bit of a trigger register runs the channel's trigger (R79). -/
def triggerIf (v : Byte) (f : State → State) (s : State) : State := if bit v 7 then f s else s

/-- A write of a register, with its side effect (R77 to R84, R345, 60_exceptions.md rule R354). -/
def ioWrite (r : IoReg) (v : Byte) (s : State) : State :=
  match r with
  | .p1 => { s with joy := { s.joy with
      select := (mergeMask (s.writeMask .p1) (p1Stored s.joy.select) v).extractLsb' 4 2 } }
  | .div => { s with timer := { s.timer with div16 := 0 } }
  | .intf => { s with iflag := v.extractLsb' 0 5 }
  | .nr11 => loadLength1 v (storeIo .nr11 v s)
  | .nr14 => triggerIf v trigger1 (storeIo .nr14 v s)
  | .nr21 => loadLength2 v (storeIo .nr21 v s)
  | .nr24 => triggerIf v trigger2 (storeIo .nr24 v s)
  | .nr31 => loadLength3 v (storeIo .nr31 v s)
  | .nr34 => triggerIf v trigger3 (storeIo .nr34 v s)
  | .nr41 => loadLength4 v (storeIo .nr41 v s)
  | .nr44 => triggerIf v trigger4 (storeIo .nr44 v s)
  | .nr52 => { s with audio := { s.audio with
      master := bit (mergeMask (s.writeMask .nr52) (nr52Bits s.audio) v) 7 } }
  | .stat => s.setIo .stat (mergeMask (s.writeMask .stat &&& 0xFC) (s.io .stat) v)
  | .ly => s
  | .dma => { s.setIo .dma v with dma := { src := join16 v 0x00, left := Config.oamDmaTicks } }
  | .bank => { storeIo .bank v s with bootMapped := s.bootMapped && decide (v = 0) }
  | .hdma1 => { s with hdma := { s.hdma with
      src := join16 (mergeMask (s.writeMask .hdma1) (hiByte s.hdma.src) v) (loByte s.hdma.src) } }
  | .hdma2 => { s with hdma := { s.hdma with
      src := join16 (hiByte s.hdma.src) (mergeMask (s.writeMask .hdma2) (loByte s.hdma.src) v) } }
  | .hdma3 => { s with hdma := { s.hdma with
      dst := join16 (mergeMask (s.writeMask .hdma3) (hiByte s.hdma.dst) v) (loByte s.hdma.dst) } }
  | .hdma4 => { s with hdma := { s.hdma with
      dst := join16 (hiByte s.hdma.dst) (mergeMask (s.writeMask .hdma4) (loByte s.hdma.dst) v) } }
  | .hdma5 => hdma5Write v s
  | .bcpd => palWrite .bcps (bgPalKey (palIndex (s.io .bcps))) .bcpd v s
  | .ocpd => palWrite .ocps (objPalKey (palIndex (s.io .ocps))) .ocpd v s
  | r => storeIo r v s

/-- A write through the unrestricted decode. -/
def busWrite (a : Word) (v : Byte) (s : State) : State :=
  match place s a with
  | .rom _ => mbcWrite a.toNat v s
  | .ram k => s.setCell k v
  | .clock r => rtcWrite r v s
  | .denied => s
  | .io r => ioWrite r v s
  | .ie => { s with ie := v }
  | .absent => s

/-! ## The CPU's view (R82; 00_scope.md rule R9) -/

/-- Whether the OAM DMA window hides address `a` from the CPU: on ticks 1 to 159 of a transfer, all but 0xFF46 and high RAM. -/
def cpuRestricted (s : State) (a : Word) : Bool :=
  decide (0 < s.dma.left) && decide (s.dma.left < Config.oamDmaTicks) &&
    !(decide (a = 0xFF46) || (decide (0xFF80 ≤ a.toNat) && decide (a.toNat < 0xFFFF)))

/-- The byte a CPU read returns: `MemRead(a, 1)`. -/
def cpuPeek (s : State) (a : Word) : Byte := if cpuRestricted s a then Config.unmapped else peek s a

/-- The state after a CPU read. -/
def cpuObserve (s : State) (a : Word) : State := if cpuRestricted s a then s else observe s a

/-- A CPU write: `MemWrite(a, 1, v)`. -/
def cpuWrite (a : Word) (v : Byte) (s : State) : State := if cpuRestricted s a then s else busWrite a v s

/-! ## The bus step (60_exceptions.md rule R358) -/

/-- One byte of an OAM DMA transfer (R81). -/
def oamDmaStep (s : State) : State :=
  if 0 < s.dma.left then
    let k := Config.oamDmaTicks - s.dma.left
    let a := s.dma.src + BitVec.ofNat 16 k
    let v := peek s a
    let s' := observe s a
    { s'.setCell (oamKey k) v with dma := { s.dma with left := s.dma.left - 1 } }
  else s

/-- The bus step of a tick: timer, OAM DMA byte, joypad lines. -/
def busStep (s : State) : State := joypadStep (oamDmaStep (timerStep s))

end Sys2Proof.Machine
end

