-- ==== Sys2Proof/Machine/Flags.lean ====
section
/-! DEFINITION. The flag register and every arithmetic, logic and shift function with its flags (10_state.md rules R23, R24;
42_alu8.md rules R190 to R192, R217, R219, R221 to R224; 43_alu16.md rules R230, R233; 44_rotate_shift_bit.md rule R239). A
function that computes flags answers the result with the whole new flag register. -/

namespace Sys2Proof.Machine

/-! ## The flag register as a byte (R23) -/

/-- `F`: Z, N, H, C in bits 7 to 4, the low nibble 0. -/
def Flags.toByte (f : Flags) : Byte :=
  BitVec.ofBool f.z ++ BitVec.ofBool f.n ++ BitVec.ofBool f.h ++ BitVec.ofBool f.c ++ (0 : BitVec 4)

/-- `F <- v & 0xF0` (R181). -/
def Flags.ofByte (v : Byte) : Flags := ⟨v.getLsbD 7, v.getLsbD 6, v.getLsbD 5, v.getLsbD 4⟩

/-! ## 8-bit addition and subtraction -/

/-- `v[3:0]`. -/
def lowNibble (v : Byte) : Nat := v.toNat % 16

/-- `add8(a, b, cin)` (R190). -/
def add8 (a b : Byte) (cin : Bool) : Byte × Flags :=
  let r := BitVec.ofNat 8 (a.toNat + b.toNat + bitNat cin)
  (r, { z := r = 0
        n := false
        h := lowNibble a + lowNibble b + bitNat cin > 0xF
        c := a.toNat + b.toNat + bitNat cin > 0xFF })

/-- `sub8(a, b, cin)` (R191). -/
def sub8 (a b : Byte) (cin : Bool) : Byte × Flags :=
  let r := BitVec.ofInt 8 ((a.toNat : Int) - b.toNat - bitNat cin)
  (r, { z := r = 0
        n := true
        h := lowNibble a < lowNibble b + bitNat cin
        c := a.toNat < b.toNat + bitNat cin })

/-! ## Logic (R192) -/

/-- `and8(a, b)`. -/
def and8 (a b : Byte) : Byte × Flags := (a &&& b, ⟨a &&& b = 0, false, true, false⟩)

/-- `xor8(a, b)`. -/
def xor8 (a b : Byte) : Byte × Flags := (a ^^^ b, ⟨a ^^^ b = 0, false, false, false⟩)

/-- `or8(a, b)`. -/
def or8 (a b : Byte) : Byte × Flags := (a ||| b, ⟨a ||| b = 0, false, false, false⟩)

/-! ## Increment, decrement, adjustments -/

/-- `u8(v + 1)` with its flags; `C` keeps its value (R217). -/
def inc8 (v : Byte) (f : Flags) : Byte × Flags :=
  (v + 1, { z := v + 1 = 0, n := false, h := lowNibble v = 0xF, c := f.c })

/-- `u8(v - 1)` with its flags; `C` keeps its value (R219). -/
def dec8 (v : Byte) (f : Flags) : Byte × Flags :=
  (v - 1, { z := v - 1 = 0, n := true, h := lowNibble v = 0, c := f.c })

/-- `DAA`: the adjusted value before `u8`, on unbounded integers, and the new carry (R221). -/
def daaAdjust (a : Byte) (f : Flags) : Int × Bool :=
  let v : Int := a.toNat
  if f.n then
    let v1 := if f.c then v - 0x60 else v
    (if f.h then v1 - 0x06 else v1, f.c)
  else
    let high := f.c || decide (a.toNat > 0x99)
    let v1 := if high then v + 0x60 else v
    (if f.h || decide (lowNibble a > 0x9) then v1 + 0x06 else v1, high)

/-- `DAA` (R221). -/
def daa8 (a : Byte) (f : Flags) : Byte × Flags :=
  let p := daaAdjust a f
  let r := BitVec.ofInt 8 p.1
  (r, { z := r = 0, n := f.n, h := false, c := p.2 })

/-! ## 16-bit arithmetic -/

/-- `HL + rr` with its flags; `Z` keeps its value (R230). -/
def add16 (a b : Word) (f : Flags) : Word × Flags :=
  (a + b,
    { z := f.z
      n := false
      h := a.toNat % 0x1000 + b.toNat % 0x1000 > 0xFFF
      c := a.toNat + b.toNat > 0xFFFF })

/-- `u16(v + s8(e))`: an offset byte is sign-extended (00_scope.md rule R7). -/
def offset16 (v : Word) (e : Byte) : Word := v + e.signExtend 16

/-- `sp + s8(e)` with the flags of the unsigned addition of the low bytes (R178, R233). -/
def addSpOffset (sp : Word) (e : Byte) : Word × Flags :=
  (offset16 sp e,
    { z := false
      n := false
      h := sp.toNat % 16 + lowNibble e > 0xF
      c := sp.toNat % 256 + e.toNat > 0xFF })

/-! ## Shifts and rotates (R239): result and carry-out -/

/-- `rlc`. -/
def rlc8 (v : Byte) : Byte × Bool := (v.extractLsb' 0 7 ++ v.extractLsb' 7 1, v.getLsbD 7)

/-- `rrc`. -/
def rrc8 (v : Byte) : Byte × Bool := (v.extractLsb' 0 1 ++ v.extractLsb' 1 7, v.getLsbD 0)

/-- `rl`. -/
def rl8 (v : Byte) (c : Bool) : Byte × Bool := (v.extractLsb' 0 7 ++ BitVec.ofBool c, v.getLsbD 7)

/-- `rr`. -/
def rr8 (v : Byte) (c : Bool) : Byte × Bool := (BitVec.ofBool c ++ v.extractLsb' 1 7, v.getLsbD 0)

/-- `sla`. -/
def sla8 (v : Byte) : Byte × Bool := (v.extractLsb' 0 7 ++ (0 : BitVec 1), v.getLsbD 7)

/-- `sra`. -/
def sra8 (v : Byte) : Byte × Bool := (v.extractLsb' 7 1 ++ v.extractLsb' 1 7, v.getLsbD 0)

/-- `swap`. -/
def swap8 (v : Byte) : Byte × Bool := (v.extractLsb' 0 4 ++ v.extractLsb' 4 4, false)

/-- `srl`. -/
def srl8 (v : Byte) : Byte × Bool := ((0 : BitVec 1) ++ v.extractLsb' 1 7, v.getLsbD 0)

/-- The flags of a prefixed shift or rotate: `Z` from the result, `C` the carry-out (44_rotate_shift_bit.md, section 3). -/
def shiftFlags (p : Byte × Bool) : Flags := ⟨p.1 = 0, false, false, p.2⟩

/-- The flags of an accumulator rotate: `Z` always cleared (R240 to R243). -/
def rotateAFlags (p : Byte × Bool) : Flags := ⟨false, false, false, p.2⟩

/-- The flags of `BIT b`: `Z` is the complement of the bit, `C` keeps its value (R260). -/
def bitFlags (v : Byte) (b : BitVec 3) (f : Flags) : Flags := ⟨!v.getLsbD b.toNat, false, true, f.c⟩

/-- `v & ~(1 << b)` (R262). -/
def resBit (v : Byte) (b : BitVec 3) : Byte := v &&& ~~~((1 : Byte) <<< b.toNat)

/-- `v | (1 << b)` (R264). -/
def setBit (v : Byte) (b : BitVec 3) : Byte := v ||| (1 : Byte) <<< b.toNat

end Sys2Proof.Machine
end

