-- ==== Sys2Proof/Machine/Operands.lean ====
section
/-! DEFINITION. Every operand form (00_scope.md rules R8, R11; 10_state.md rules R20, R21, R28): general registers, pairs, the
stack group, conditions and the high page. All register reads and writes of the meanings go through these. -/

namespace Sys2Proof.Machine

/-- Replaces the engine's part of the state. -/
def State.setCpu (s : State) (c : Cpu) : State := { s with cpu := c }

/-- `x[i]` (R8). -/
def State.reg (s : State) : Reg8 → Byte
  | .b => s.cpu.b
  | .c => s.cpu.c
  | .d => s.cpu.d
  | .e => s.cpu.e
  | .h => s.cpu.h
  | .l => s.cpu.l
  | .a => s.cpu.a

/-- `x[i] <- v` (R8). -/
def State.setReg (s : State) (r : Reg8) (v : Byte) : State :=
  match r with
  | .b => s.setCpu { s.cpu with b := v }
  | .c => s.setCpu { s.cpu with c := v }
  | .d => s.setCpu { s.cpu with d := v }
  | .e => s.setCpu { s.cpu with e := v }
  | .h => s.setCpu { s.cpu with h := v }
  | .l => s.setCpu { s.cpu with l := v }
  | .a => s.setCpu { s.cpu with a := v }

/-- The accumulator and the flags are written together by the arithmetic group. -/
def State.setF (s : State) (f : Flags) : State := s.setCpu { s.cpu with f := f }

/-- `sp <- v`. -/
def State.setSp (s : State) (v : Word) : State := s.setCpu { s.cpu with sp := v }

/-- `pc <- v`. -/
def State.setPc (s : State) (v : Word) : State := s.setCpu { s.cpu with pc := v }

/-- `BC`, `DE`, `HL` (R21: the first letter is the high byte). -/
def State.bc (s : State) : Word := join16 s.cpu.b s.cpu.c
def State.de (s : State) : Word := join16 s.cpu.d s.cpu.e
def State.hl (s : State) : Word := join16 s.cpu.h s.cpu.l

/-- A write of `HL` is a write of its two halves (R21). -/
def State.setHl (s : State) (v : Word) : State := s.setCpu { s.cpu with h := hiByte v, l := loByte v }

/-- `xx[p]` (R8). -/
def State.pair (s : State) : Pair → Word
  | .bc => s.bc
  | .de => s.de
  | .hl => s.hl
  | .sp => s.cpu.sp

/-- `xx[p] <- v` (R8, R21). -/
def State.setPair (s : State) (p : Pair) (v : Word) : State :=
  match p with
  | .bc => s.setCpu { s.cpu with b := hiByte v, c := loByte v }
  | .de => s.setCpu { s.cpu with d := hiByte v, e := loByte v }
  | .hl => s.setHl v
  | .sp => s.setSp v

/-- `xs[p]` (R8); `AF` = `A ++ F`. -/
def State.stackPair (s : State) : StackPair → Word
  | .bc => s.bc
  | .de => s.de
  | .hl => s.hl
  | .af => join16 s.cpu.a s.cpu.f.toByte

/-- `xs[p] <- v` (R8); a write of `AF` forces `F[3:0]` to zero (R24). -/
def State.setStackPair (s : State) (q : StackPair) (v : Word) : State :=
  match q with
  | .bc => s.setCpu { s.cpu with b := hiByte v, c := loByte v }
  | .de => s.setCpu { s.cpu with d := hiByte v, e := loByte v }
  | .hl => s.setHl v
  | .af => s.setCpu { s.cpu with a := hiByte v, f := Flags.ofByte (loByte v) }

/-- `cond(cc)` (R11). -/
def condHolds (cc : Cond) (f : Flags) : Bool :=
  match cc with
  | .nz => !f.z
  | .z => f.z
  | .nc => !f.c
  | .c => f.c

/-- `0xFF00 + n`, `n` zero-extended (R161, R163). -/
def highPage (n : Byte) : Word := join16 0xFF n

end Sys2Proof.Machine
end

