-- ==== Sys2Proof/Machine/Ops.lean ====
section
/-! DEFINITION. The shared operations of the instruction rules (00_scope.md rules R9, R10) and the dispatch of an interrupt, the
one exception entry this hardware has (60_exceptions.md rule R306), with its return (R309). A meaning finds `pc` past the
instruction's bytes (10_state.md rule R26) and sets the instruction's duration with `finish`. -/

namespace Sys2Proof.Machine

/-- What a meaning answers. -/
abbrev Result := Host.Outcome State Fault Refusal

/-- The instruction's effect is `s`, and it lasts `n` ticks from decode to completion (R12, 70_reset_and_hazards.md rule
R384). -/
def finish (n : Nat) (s : State) : Result := .next (s.setCpu { s.cpu with dur := n })

/-! ## Memory primitives (R9) -/

/-- `MemRead(a, 1)`: the byte and the state after the read. -/
def cpuRead (a : Word) (s : State) : Byte × State := (cpuPeek s a, cpuObserve s a)

/-- `MemWrite(a, 2, v)`: the low byte at `a`, then the high byte at `u16(a + 1)`. -/
def cpuWrite16 (a v : Word) (s : State) : State := cpuWrite (a + 1) (hiByte v) (cpuWrite a (loByte v) s)

/-! ## Fetch and stack primitives (R10) -/

/-- `Fetch8()`. -/
def fetch8 (s : State) : Byte × State :=
  let s' := cpuObserve s s.cpu.pc
  (cpuPeek s s.cpu.pc, s'.setPc (s'.cpu.pc + 1))

/-- `sp <- u16(sp-1); MemWrite(sp, 1, v)`. -/
def push8 (v : Byte) (s : State) : State :=
  let s' := s.setSp (s.cpu.sp - 1)
  cpuWrite s'.cpu.sp v s'

/-- `Push16(v)`: the high byte first. -/
def push16 (v : Word) (s : State) : State := push8 (loByte v) (push8 (hiByte v) s)

/-- `MemRead(sp, 1); sp <- u16(sp+1)`. -/
def pop8 (s : State) : Byte × State :=
  let s' := cpuObserve s s.cpu.sp
  (cpuPeek s s.cpu.sp, s'.setSp (s'.cpu.sp + 1))

/-- `Pop16()`: the low byte first. -/
def pop16 (s : State) : Word × State :=
  let lo := pop8 s
  let hi := pop8 lo.2
  (join16 hi.1 lo.1, hi.2)

/-! ## Shapes the instruction rules share -/

/-- `x[r] <- MemRead(a, 1)`. -/
def loadReg (r : Reg8) (a : Word) (s : State) : State :=
  let p := cpuRead a s
  p.2.setReg r p.1

/-- `A` and `F` take the result of an arithmetic or logic function. -/
def setAF (p : Byte × Flags) (s : State) : State := (s.setReg .a p.1).setF p.2

/-- A two-operand operation on `A` with the memory byte at `HL`. -/
def aluHl (f : Byte → Byte → Byte × Flags) (s : State) : State :=
  let m := cpuRead s.hl s
  setAF (f m.2.cpu.a m.1) m.2

/-- A register takes the result of a function of its value, with the flags. -/
def modifyReg (f : Byte → Byte × Flags) (r : Reg8) (s : State) : State :=
  let p := f (s.reg r)
  (s.setReg r p.1).setF p.2

/-- The memory byte at `HL` is read, then written with the result of a function of it, with the flags. -/
def modifyHl (f : Byte → Byte × Flags) (s : State) : State :=
  let m := cpuRead s.hl s
  let p := f m.1
  (cpuWrite m.2.hl p.1 m.2).setF p.2

/-- A shift or rotate function with the flags of a prefixed shift. -/
def withShiftFlags (p : Byte × Bool) : Byte × Flags := (p.1, shiftFlags p)

/-- An accumulator rotate. -/
def rotateA (f : Byte → Byte × Bool) (s : State) : State :=
  let p := f s.cpu.a
  (s.setReg .a p.1).setF (rotateAFlags p)

/-- `Push16(pc); pc <- target`. -/
def callTo (target : Word) (s : State) : State := (push16 s.cpu.pc s).setPc target

/-- `pc <- Pop16()`. -/
def popPc (s : State) : State :=
  let p := pop16 s
  p.2.setPc p.1

/-! ## Taking an interrupt and returning from one -/

/-- The address of an interrupt's handler: `0x0040 + 8 * i` (R306, R307). -/
def Irq.vector (q : Irq) : Word := BitVec.ofNat 16 (0x40 + 8 * q.index)

/-- The dispatch of interrupt `q`: `IME <- 0; IF[i] <- 0; Push16(pc); pc <- 0x0040 + 8 * i` (R306). The hardware saves `pc`
only, on the stack (R308). DESIGN CHOICE (log 29): an `ei_delay` still running, which only an `EI` with `IME` already 1 leaves,
ends here, so that the handler starts with `IME` = 0 (R289, R305, R310) where the pseudocode of R311 alone would set it again. -/
def dispatchInterrupt (q : Irq) (s : State) : State :=
  let s1 := s.setCpu { s.cpu with ime := false, eiDelay := 0 }
  let s2 := { s1 with iflag := s1.iflag &&& ~~~q.mask }
  callTo q.vector s2

/-- The return from an interrupt: `pc <- Pop16(); IME <- 1` (45_control.md rule R279, R309). -/
def returnFromInterrupt (s : State) : State :=
  let s' := popPc s
  s'.setCpu { s'.cpu with ime := true }

end Sys2Proof.Machine
end

