-- ==== Sys2Proof/Machine/Alu16.lean ====
section
/-! DEFINITION. The meanings of the 16-bit arithmetic instructions (43_alu16.md rules R230 to R233). -/

namespace Sys2Proof.Machine

/-- R230: `HL <- u16(HL + xx[p])`. -/
def execAddHlRr (p : Pair) (s : State) : Result :=
  let r := add16 s.hl (s.pair p) s.cpu.f
  finish 8 ((s.setHl r.1).setF r.2)

/-- R231: `xx[p] <- u16(xx[p] + 1)`. -/
def execIncRr (p : Pair) (s : State) : Result := finish 8 (s.setPair p (s.pair p + 1))

/-- R232: `xx[p] <- u16(xx[p] - 1)`. -/
def execDecRr (p : Pair) (s : State) : Result := finish 8 (s.setPair p (s.pair p - 1))

/-- R233: `sp <- u16(sp + s8(e))`. -/
def execAddSpE8 (e : Byte) (s : State) : Result :=
  let r := addSpOffset s.cpu.sp e
  finish 16 ((s.setSp r.1).setF r.2)

end Sys2Proof.Machine
end

