-- ==== Sys2Proof/Machine/Alu8.lean ====
section
/-! DEFINITION. The meanings of the 8-bit arithmetic and logic instructions (42_alu8.md rules R193 to R224). The operand and the
carry are read before `A` and `F` are written. -/

namespace Sys2Proof.Machine

/-- R193: `ADD A,r`. -/
def execAddAR (r : Reg8) (s : State) : Result := finish 4 (setAF (add8 s.cpu.a (s.reg r) false) s)

/-- R194: `ADD A,(HL)`. -/
def execAddAHl (s : State) : Result := finish 8 (aluHl (fun a v => add8 a v false) s)

/-- R195: `ADD A,n8`. -/
def execAddAN8 (n : Byte) (s : State) : Result := finish 8 (setAF (add8 s.cpu.a n false) s)

/-- R196: `ADC A,r`. -/
def execAdcAR (r : Reg8) (s : State) : Result := finish 4 (setAF (add8 s.cpu.a (s.reg r) s.cpu.f.c) s)

/-- R197: `ADC A,(HL)`. -/
def execAdcAHl (s : State) : Result := finish 8 (aluHl (fun a v => add8 a v s.cpu.f.c) s)

/-- R198: `ADC A,n8`. -/
def execAdcAN8 (n : Byte) (s : State) : Result := finish 8 (setAF (add8 s.cpu.a n s.cpu.f.c) s)

/-- R199: `SUB A,r`. -/
def execSubAR (r : Reg8) (s : State) : Result := finish 4 (setAF (sub8 s.cpu.a (s.reg r) false) s)

/-- R200: `SUB A,(HL)`. -/
def execSubAHl (s : State) : Result := finish 8 (aluHl (fun a v => sub8 a v false) s)

/-- R201: `SUB A,n8`. -/
def execSubAN8 (n : Byte) (s : State) : Result := finish 8 (setAF (sub8 s.cpu.a n false) s)

/-- R202: `SBC A,r`. -/
def execSbcAR (r : Reg8) (s : State) : Result := finish 4 (setAF (sub8 s.cpu.a (s.reg r) s.cpu.f.c) s)

/-- R203: `SBC A,(HL)`. -/
def execSbcAHl (s : State) : Result := finish 8 (aluHl (fun a v => sub8 a v s.cpu.f.c) s)

/-- R204: `SBC A,n8`. -/
def execSbcAN8 (n : Byte) (s : State) : Result := finish 8 (setAF (sub8 s.cpu.a n s.cpu.f.c) s)

/-- R205: `AND A,r`. -/
def execAndAR (r : Reg8) (s : State) : Result := finish 4 (setAF (and8 s.cpu.a (s.reg r)) s)

/-- R206: `AND A,(HL)`. -/
def execAndAHl (s : State) : Result := finish 8 (aluHl (fun a v => and8 a v) s)

/-- R207: `AND A,n8`. -/
def execAndAN8 (n : Byte) (s : State) : Result := finish 8 (setAF (and8 s.cpu.a n) s)

/-- R208: `XOR A,r`. -/
def execXorAR (r : Reg8) (s : State) : Result := finish 4 (setAF (xor8 s.cpu.a (s.reg r)) s)

/-- R209: `XOR A,(HL)`. -/
def execXorAHl (s : State) : Result := finish 8 (aluHl (fun a v => xor8 a v) s)

/-- R210: `XOR A,n8`. -/
def execXorAN8 (n : Byte) (s : State) : Result := finish 8 (setAF (xor8 s.cpu.a n) s)

/-- R211: `OR A,r`. -/
def execOrAR (r : Reg8) (s : State) : Result := finish 4 (setAF (or8 s.cpu.a (s.reg r)) s)

/-- R212: `OR A,(HL)`. -/
def execOrAHl (s : State) : Result := finish 8 (aluHl (fun a v => or8 a v) s)

/-- R213: `OR A,n8`. -/
def execOrAN8 (n : Byte) (s : State) : Result := finish 8 (setAF (or8 s.cpu.a n) s)

/-- R214: `CP A,r`; `A` is not written. -/
def execCpAR (r : Reg8) (s : State) : Result := finish 4 (s.setF (sub8 s.cpu.a (s.reg r) false).2)

/-- R215: `CP A,(HL)`. -/
def execCpAHl (s : State) : Result :=
  let m := cpuRead s.hl s
  finish 8 (m.2.setF (sub8 m.2.cpu.a m.1 false).2)

/-- R216: `CP A,n8`. -/
def execCpAN8 (n : Byte) (s : State) : Result := finish 8 (s.setF (sub8 s.cpu.a n false).2)

/-- R217: `INC r`. -/
def execIncR (r : Reg8) (s : State) : Result := finish 4 (modifyReg (fun v => inc8 v s.cpu.f) r s)

/-- R218: `INC (HL)`. -/
def execIncHl (s : State) : Result := finish 12 (modifyHl (fun v => inc8 v s.cpu.f) s)

/-- R219: `DEC r`. -/
def execDecR (r : Reg8) (s : State) : Result := finish 4 (modifyReg (fun v => dec8 v s.cpu.f) r s)

/-- R220: `DEC (HL)`. -/
def execDecHl (s : State) : Result := finish 12 (modifyHl (fun v => dec8 v s.cpu.f) s)

/-- R221: `DAA`. -/
def execDaa (s : State) : Result := finish 4 (setAF (daa8 s.cpu.a s.cpu.f) s)

/-- R222: `A <- ~A; F.N <- 1; F.H <- 1`. -/
def execCpl (s : State) : Result := finish 4 (setAF (~~~s.cpu.a, { s.cpu.f with n := true, h := true }) s)

/-- R223: `F.N <- 0; F.H <- 0; F.C <- 1`. -/
def execScf (s : State) : Result := finish 4 (s.setF { s.cpu.f with n := false, h := false, c := true })

/-- R224: `F.N <- 0; F.H <- 0; F.C <- 1 - F.C`. -/
def execCcf (s : State) : Result := finish 4 (s.setF { s.cpu.f with n := false, h := false, c := !s.cpu.f.c })

end Sys2Proof.Machine
end

