-- ==== Sys2Proof/Machine/Control.lean ====
section
/-! DEFINITION. The meanings of the control transfer instructions (45_control.md rules R270 to R280). -/

namespace Sys2Proof.Machine

/-- R270: `pc <- n16`. -/
def execJpN16 (n : Word) (s : State) : Result := finish 16 (s.setPc n)

/-- R271: `if cond(cc) then pc <- n16`. -/
def execJpCcN16 (cc : Cond) (n : Word) (s : State) : Result :=
  if condHolds cc s.cpu.f then finish 16 (s.setPc n) else finish 12 s

/-- R272: `pc <- HL`. -/
def execJpHl (s : State) : Result := finish 4 (s.setPc s.hl)

/-- R273: `pc <- u16(pc + s8(e))`. -/
def execJrE8 (e : Byte) (s : State) : Result := finish 12 (s.setPc (offset16 s.cpu.pc e))

/-- R274: `if cond(cc) then pc <- u16(pc + s8(e))`. -/
def execJrCcE8 (cc : Cond) (e : Byte) (s : State) : Result :=
  if condHolds cc s.cpu.f then finish 12 (s.setPc (offset16 s.cpu.pc e)) else finish 8 s

/-- R275: `Push16(pc); pc <- n16`. -/
def execCallN16 (n : Word) (s : State) : Result := finish 24 (callTo n s)

/-- R276: `if cond(cc) then { Push16(pc); pc <- n16 }`. -/
def execCallCcN16 (cc : Cond) (n : Word) (s : State) : Result :=
  if condHolds cc s.cpu.f then finish 24 (callTo n s) else finish 12 s

/-- R277: `pc <- Pop16()`. -/
def execRet (s : State) : Result := finish 16 (popPc s)

/-- R278: `if cond(cc) then pc <- Pop16()`. -/
def execRetCc (cc : Cond) (s : State) : Result :=
  if condHolds cc s.cpu.f then finish 20 (popPc s) else finish 8 s

/-- R279: `pc <- Pop16(); IME <- 1`. -/
def execReti (s : State) : Result := finish 16 (returnFromInterrupt s)

/-- R280: `Push16(pc); pc <- t * 8`. -/
def execRstT (t : BitVec 3) (s : State) : Result := finish 16 (callTo (BitVec.ofNat 16 (t.toNat * 8)) s)

end Sys2Proof.Machine
end

