-- ==== Sys2Proof/Machine/Load16.lean ====
section
/-! DEFINITION. The meanings of the 16-bit loads and the stack instructions (41_load16_stack.md rules R175 to R181). -/

namespace Sys2Proof.Machine

/-- R175: `xx[p] <- n16`. -/
def execLdRrN16 (p : Pair) (n : Word) (s : State) : Result := finish 12 (s.setPair p n)

/-- R176: `MemWrite(n16, 2, sp)`. -/
def execLdN16Sp (n : Word) (s : State) : Result := finish 20 (cpuWrite16 n s.cpu.sp s)

/-- R177: `sp <- HL`. -/
def execLdSpHl (s : State) : Result := finish 8 (s.setSp s.hl)

/-- R178: `HL <- u16(sp + s8(e))` with the flags of the low-byte addition. -/
def execLdHlSpE8 (e : Byte) (s : State) : Result :=
  let p := addSpOffset s.cpu.sp e
  finish 12 ((s.setHl p.1).setF p.2)

/-- R179: `Push16(xs[q])`. -/
def execPushRs (q : StackPair) (s : State) : Result := finish 16 (push16 (s.stackPair q) s)

/-- R180: `xs[q] <- Pop16()`. -/
def execPopRs (q : StackPair) (s : State) : Result :=
  let p := pop16 s
  finish 12 (p.2.setStackPair q p.1)

/-- R181: `v <- Pop16(); A <- v[15:8]; F <- v[7:0] & 0xF0`. -/
def execPopAf (s : State) : Result :=
  let p := pop16 s
  finish 12 (p.2.setStackPair .af p.1)

end Sys2Proof.Machine
end

