-- ==== Sys2Proof/Machine/Load8.lean ====
section
/-! DEFINITION. The meanings of the 8-bit loads and stores (40_load8.md rules R150 to R168). -/

namespace Sys2Proof.Machine

/-- R150: `x[rd] <- x[rs]`. -/
def execLdRR (rd rs : Reg8) (s : State) : Result := finish 4 (s.setReg rd (s.reg rs))

/-- R151: `x[r] <- n8`. -/
def execLdRN8 (r : Reg8) (n : Byte) (s : State) : Result := finish 8 (s.setReg r n)

/-- R152: `x[r] <- MemRead(HL, 1)`. -/
def execLdRHl (r : Reg8) (s : State) : Result := finish 8 (loadReg r s.hl s)

/-- R153: `MemWrite(HL, 1, x[r])`. -/
def execLdHlR (r : Reg8) (s : State) : Result := finish 8 (cpuWrite s.hl (s.reg r) s)

/-- R154: `MemWrite(HL, 1, n8)`. -/
def execLdHlN8 (n : Byte) (s : State) : Result := finish 12 (cpuWrite s.hl n s)

/-- R155: `A <- MemRead(BC, 1)`. -/
def execLdABc (s : State) : Result := finish 8 (loadReg .a s.bc s)

/-- R156: `A <- MemRead(DE, 1)`. -/
def execLdADe (s : State) : Result := finish 8 (loadReg .a s.de s)

/-- R157: `MemWrite(BC, 1, A)`. -/
def execLdBcA (s : State) : Result := finish 8 (cpuWrite s.bc s.cpu.a s)

/-- R158: `MemWrite(DE, 1, A)`. -/
def execLdDeA (s : State) : Result := finish 8 (cpuWrite s.de s.cpu.a s)

/-- R159: `A <- MemRead(n16, 1)`. -/
def execLdAN16 (n : Word) (s : State) : Result := finish 16 (loadReg .a n s)

/-- R160: `MemWrite(n16, 1, A)`. -/
def execLdN16A (n : Word) (s : State) : Result := finish 16 (cpuWrite n s.cpu.a s)

/-- R161: `A <- MemRead(0xFF00 + C, 1)`. -/
def execLdhAC (s : State) : Result := finish 8 (loadReg .a (highPage s.cpu.c) s)

/-- R162: `MemWrite(0xFF00 + C, 1, A)`. -/
def execLdhCA (s : State) : Result := finish 8 (cpuWrite (highPage s.cpu.c) s.cpu.a s)

/-- R163: `A <- MemRead(0xFF00 + n8, 1)`. -/
def execLdhAN8 (n : Byte) (s : State) : Result := finish 12 (loadReg .a (highPage n) s)

/-- R164: `MemWrite(0xFF00 + n8, 1, A)`. -/
def execLdhN8A (n : Byte) (s : State) : Result := finish 12 (cpuWrite (highPage n) s.cpu.a s)

/-- R165: `A <- MemRead(HL, 1); HL <- u16(HL - 1)`. -/
def execLdAHld (s : State) : Result :=
  let s' := loadReg .a s.hl s
  finish 8 (s'.setHl (s'.hl - 1))

/-- R166: `MemWrite(HL, 1, A); HL <- u16(HL - 1)`. -/
def execLdHldA (s : State) : Result :=
  let s' := cpuWrite s.hl s.cpu.a s
  finish 8 (s'.setHl (s'.hl - 1))

/-- R167: `A <- MemRead(HL, 1); HL <- u16(HL + 1)`. -/
def execLdAHli (s : State) : Result :=
  let s' := loadReg .a s.hl s
  finish 8 (s'.setHl (s'.hl + 1))

/-- R168: `MemWrite(HL, 1, A); HL <- u16(HL + 1)`. -/
def execLdHliA (s : State) : Result :=
  let s' := cpuWrite s.hl s.cpu.a s
  finish 8 (s'.setHl (s'.hl + 1))

end Sys2Proof.Machine
end

