-- ==== Sys2Proof/Machine/Rotate.lean ====
section
/-! DEFINITION. The meanings of the rotate, shift and bit instructions (44_rotate_shift_bit.md rules R240 to R265). -/

namespace Sys2Proof.Machine

/-- R240: `RLCA`. -/
def execRlca (s : State) : Result := finish 4 (rotateA rlc8 s)

/-- R241: `RRCA`. -/
def execRrca (s : State) : Result := finish 4 (rotateA rrc8 s)

/-- R242: `RLA`. -/
def execRla (s : State) : Result := finish 4 (rotateA (fun v => rl8 v s.cpu.f.c) s)

/-- R243: `RRA`. -/
def execRra (s : State) : Result := finish 4 (rotateA (fun v => rr8 v s.cpu.f.c) s)

/-- R244: `RLC r`. -/
def execRlcR (r : Reg8) (s : State) : Result := finish 8 (modifyReg (fun v => withShiftFlags (rlc8 v)) r s)

/-- R245: `RLC (HL)`. -/
def execRlcHl (s : State) : Result := finish 16 (modifyHl (fun v => withShiftFlags (rlc8 v)) s)

/-- R246: `RRC r`. -/
def execRrcR (r : Reg8) (s : State) : Result := finish 8 (modifyReg (fun v => withShiftFlags (rrc8 v)) r s)

/-- R247: `RRC (HL)`. -/
def execRrcHl (s : State) : Result := finish 16 (modifyHl (fun v => withShiftFlags (rrc8 v)) s)

/-- R248: `RL r`. -/
def execRlR (r : Reg8) (s : State) : Result := finish 8 (modifyReg (fun v => withShiftFlags (rl8 v s.cpu.f.c)) r s)

/-- R249: `RL (HL)`. -/
def execRlHl (s : State) : Result := finish 16 (modifyHl (fun v => withShiftFlags (rl8 v s.cpu.f.c)) s)

/-- R250: `RR r`. -/
def execRrR (r : Reg8) (s : State) : Result := finish 8 (modifyReg (fun v => withShiftFlags (rr8 v s.cpu.f.c)) r s)

/-- R251: `RR (HL)`. -/
def execRrHl (s : State) : Result := finish 16 (modifyHl (fun v => withShiftFlags (rr8 v s.cpu.f.c)) s)

/-- R252: `SLA r`. -/
def execSlaR (r : Reg8) (s : State) : Result := finish 8 (modifyReg (fun v => withShiftFlags (sla8 v)) r s)

/-- R253: `SLA (HL)`. -/
def execSlaHl (s : State) : Result := finish 16 (modifyHl (fun v => withShiftFlags (sla8 v)) s)

/-- R254: `SRA r`. -/
def execSraR (r : Reg8) (s : State) : Result := finish 8 (modifyReg (fun v => withShiftFlags (sra8 v)) r s)

/-- R255: `SRA (HL)`. -/
def execSraHl (s : State) : Result := finish 16 (modifyHl (fun v => withShiftFlags (sra8 v)) s)

/-- R256: `SWAP r`. -/
def execSwapR (r : Reg8) (s : State) : Result := finish 8 (modifyReg (fun v => withShiftFlags (swap8 v)) r s)

/-- R257: `SWAP (HL)`. -/
def execSwapHl (s : State) : Result := finish 16 (modifyHl (fun v => withShiftFlags (swap8 v)) s)

/-- R258: `SRL r`. -/
def execSrlR (r : Reg8) (s : State) : Result := finish 8 (modifyReg (fun v => withShiftFlags (srl8 v)) r s)

/-- R259: `SRL (HL)`. -/
def execSrlHl (s : State) : Result := finish 16 (modifyHl (fun v => withShiftFlags (srl8 v)) s)

/-- R260: `BIT b,r`. -/
def execBitBR (b : BitVec 3) (r : Reg8) (s : State) : Result := finish 8 (s.setF (bitFlags (s.reg r) b s.cpu.f))

/-- R261: `BIT b,(HL)`; no write is made. -/
def execBitBHl (b : BitVec 3) (s : State) : Result :=
  let m := cpuRead s.hl s
  finish 12 (m.2.setF (bitFlags m.1 b m.2.cpu.f))

/-- R262: `x[r] <- x[r] & ~(1 << b)`. -/
def execResBR (b : BitVec 3) (r : Reg8) (s : State) : Result := finish 8 (s.setReg r (resBit (s.reg r) b))

/-- R263: `v <- MemRead(HL,1); MemWrite(HL,1, v & ~(1 << b))`. -/
def execResBHl (b : BitVec 3) (s : State) : Result :=
  let m := cpuRead s.hl s
  finish 16 (cpuWrite m.2.hl (resBit m.1 b) m.2)

/-- R264: `x[r] <- x[r] | (1 << b)`. -/
def execSetBR (b : BitVec 3) (r : Reg8) (s : State) : Result := finish 8 (s.setReg r (setBit (s.reg r) b))

/-- R265: `v <- MemRead(HL,1); MemWrite(HL,1, v | (1 << b))`. -/
def execSetBHl (b : BitVec 3) (s : State) : Result :=
  let m := cpuRead s.hl s
  finish 16 (cpuWrite m.2.hl (setBit m.1 b) m.2)

end Sys2Proof.Machine
end

