-- ==== Sys2Proof/Machine/System.lean ====
section
/-! DEFINITION. The meanings of the system instructions, the extended-opcode byte and the eleven unassigned opcodes
(46_system.md rules R285 to R291), and of the five entries of the interrupt table (60_exceptions.md rule R306). -/

namespace Sys2Proof.Machine

/-- R285: nothing. -/
def execNop (s : State) : Result := finish 4 s

/-- R286: `halted <- 1`. -/
def execHalt (s : State) : Result := finish 4 (s.setCpu { s.cpu with halted := true })

/-- R287: `stopped <- 1`. The clock stops when the instruction's 4 ticks have passed. -/
def execStop (s : State) : Result := finish 4 (s.setCpu { s.cpu with stopped := true })

/-- R288: `IME <- 0; ei_delay <- 0`. -/
def execDi (s : State) : Result := finish 4 (s.setCpu { s.cpu with ime := false, eiDelay := 0 })

/-- R289: `if ei_delay == 0 then ei_delay <- 2`. -/
def execEi (s : State) : Result :=
  finish 4 (s.setCpu { s.cpu with eiDelay := if s.cpu.eiDelay = 0 then 2 else s.cpu.eiDelay })

/-- The register form or the `(HL)` form the field `z` of a second byte selects (30_encoding.md rule R127). -/
def runOrHl (r : Option Reg8) (reg : Reg8 → State → Result) (mem : State → Result) (s : State) : Result :=
  match r with
  | some i => reg i s
  | none => mem s

/-- R290: the second byte is decoded in the secondary table and that instruction is executed; its duration includes the 4 ticks
of the first byte. -/
def execCbPrefix (op2 : Byte) (s : State) : Result :=
  let y := fieldY op2
  let b := BitVec.ofNat 3 y
  let r := reg8Of (fieldZ op2)
  match fieldX op2 with
  | 0 =>
    match y with
    | 0 => runOrHl r execRlcR execRlcHl s
    | 1 => runOrHl r execRrcR execRrcHl s
    | 2 => runOrHl r execRlR execRlHl s
    | 3 => runOrHl r execRrR execRrHl s
    | 4 => runOrHl r execSlaR execSlaHl s
    | 5 => runOrHl r execSraR execSraHl s
    | 6 => runOrHl r execSwapR execSwapHl s
    | _ => runOrHl r execSrlR execSrlHl s
  | 1 => runOrHl r (execBitBR b) (execBitBHl b) s
  | 2 => runOrHl r (execResBR b) (execResBHl b) s
  | _ => runOrHl r (execSetBR b) (execSetBHl b) s

/-! ## Unassigned opcodes: nothing, as `NOP` (R291) -/

/-- R291: the opcode 0xD3. -/
def execIllegalD3 (s : State) : Result := finish 4 s

/-- R291: the opcode 0xDB. -/
def execIllegalDB (s : State) : Result := finish 4 s

/-- R291: the opcode 0xDD. -/
def execIllegalDD (s : State) : Result := finish 4 s

/-- R291: the opcode 0xE3. -/
def execIllegalE3 (s : State) : Result := finish 4 s

/-- R291: the opcode 0xE4. -/
def execIllegalE4 (s : State) : Result := finish 4 s

/-- R291: the opcode 0xEB. -/
def execIllegalEB (s : State) : Result := finish 4 s

/-- R291: the opcode 0xEC. -/
def execIllegalEC (s : State) : Result := finish 4 s

/-- R291: the opcode 0xED. -/
def execIllegalED (s : State) : Result := finish 4 s

/-- R291: the opcode 0xF4. -/
def execIllegalF4 (s : State) : Result := finish 4 s

/-- R291: the opcode 0xFC. -/
def execIllegalFC (s : State) : Result := finish 4 s

/-- R291: the opcode 0xFD. -/
def execIllegalFD (s : State) : Result := finish 4 s

/-! ## Interrupt table (R306) -/

/-- R306, entry 0. -/
def execIntVblank (s : State) : Result := finish 20 (dispatchInterrupt .vblank s)

/-- R306, entry 1. -/
def execIntStat (s : State) : Result := finish 20 (dispatchInterrupt .stat s)

/-- R306, entry 2. -/
def execIntTimer (s : State) : Result := finish 20 (dispatchInterrupt .timer s)

/-- R306, entry 3. -/
def execIntSerial (s : State) : Result := finish 20 (dispatchInterrupt .serial s)

/-- R306, entry 4. -/
def execIntJoypad (s : State) : Result := finish 20 (dispatchInterrupt .joypad s)

end Sys2Proof.Machine
end

