-- ==== Sys2Proof/Machine/Dispatch.lean ====
section
/-! DEFINITION. The meaning of every constructor of `Instr`, one arm each. -/

namespace Sys2Proof.Machine

def exec (i : Instr) (s : State) : Host.Outcome State Fault Refusal :=
  match i with
  | .ldRR rd rs => Sys2Proof.Machine.execLdRR rd rs s
  | .ldRN8 r n => Sys2Proof.Machine.execLdRN8 r n s
  | .ldRHl r => Sys2Proof.Machine.execLdRHl r s
  | .ldHlR r => Sys2Proof.Machine.execLdHlR r s
  | .ldHlN8 n => Sys2Proof.Machine.execLdHlN8 n s
  | .ldABc => Sys2Proof.Machine.execLdABc s
  | .ldADe => Sys2Proof.Machine.execLdADe s
  | .ldBcA => Sys2Proof.Machine.execLdBcA s
  | .ldDeA => Sys2Proof.Machine.execLdDeA s
  | .ldAN16 n => Sys2Proof.Machine.execLdAN16 n s
  | .ldN16A n => Sys2Proof.Machine.execLdN16A n s
  | .ldhAC => Sys2Proof.Machine.execLdhAC s
  | .ldhCA => Sys2Proof.Machine.execLdhCA s
  | .ldhAN8 n => Sys2Proof.Machine.execLdhAN8 n s
  | .ldhN8A n => Sys2Proof.Machine.execLdhN8A n s
  | .ldAHld => Sys2Proof.Machine.execLdAHld s
  | .ldHldA => Sys2Proof.Machine.execLdHldA s
  | .ldAHli => Sys2Proof.Machine.execLdAHli s
  | .ldHliA => Sys2Proof.Machine.execLdHliA s
  | .ldRrN16 p n => Sys2Proof.Machine.execLdRrN16 p n s
  | .ldN16Sp n => Sys2Proof.Machine.execLdN16Sp n s
  | .ldSpHl => Sys2Proof.Machine.execLdSpHl s
  | .ldHlSpE8 e => Sys2Proof.Machine.execLdHlSpE8 e s
  | .pushRs q => Sys2Proof.Machine.execPushRs q s
  | .popRs q => Sys2Proof.Machine.execPopRs q s
  | .popAf => Sys2Proof.Machine.execPopAf s
  | .addAR r => Sys2Proof.Machine.execAddAR r s
  | .addAHl => Sys2Proof.Machine.execAddAHl s
  | .addAN8 n => Sys2Proof.Machine.execAddAN8 n s
  | .adcAR r => Sys2Proof.Machine.execAdcAR r s
  | .adcAHl => Sys2Proof.Machine.execAdcAHl s
  | .adcAN8 n => Sys2Proof.Machine.execAdcAN8 n s
  | .subAR r => Sys2Proof.Machine.execSubAR r s
  | .subAHl => Sys2Proof.Machine.execSubAHl s
  | .subAN8 n => Sys2Proof.Machine.execSubAN8 n s
  | .sbcAR r => Sys2Proof.Machine.execSbcAR r s
  | .sbcAHl => Sys2Proof.Machine.execSbcAHl s
  | .sbcAN8 n => Sys2Proof.Machine.execSbcAN8 n s
  | .andAR r => Sys2Proof.Machine.execAndAR r s
  | .andAHl => Sys2Proof.Machine.execAndAHl s
  | .andAN8 n => Sys2Proof.Machine.execAndAN8 n s
  | .xorAR r => Sys2Proof.Machine.execXorAR r s
  | .xorAHl => Sys2Proof.Machine.execXorAHl s
  | .xorAN8 n => Sys2Proof.Machine.execXorAN8 n s
  | .orAR r => Sys2Proof.Machine.execOrAR r s
  | .orAHl => Sys2Proof.Machine.execOrAHl s
  | .orAN8 n => Sys2Proof.Machine.execOrAN8 n s
  | .cpAR r => Sys2Proof.Machine.execCpAR r s
  | .cpAHl => Sys2Proof.Machine.execCpAHl s
  | .cpAN8 n => Sys2Proof.Machine.execCpAN8 n s
  | .incR r => Sys2Proof.Machine.execIncR r s
  | .incHl => Sys2Proof.Machine.execIncHl s
  | .decR r => Sys2Proof.Machine.execDecR r s
  | .decHl => Sys2Proof.Machine.execDecHl s
  | .daa => Sys2Proof.Machine.execDaa s
  | .cpl => Sys2Proof.Machine.execCpl s
  | .scf => Sys2Proof.Machine.execScf s
  | .ccf => Sys2Proof.Machine.execCcf s
  | .addHlRr p => Sys2Proof.Machine.execAddHlRr p s
  | .incRr p => Sys2Proof.Machine.execIncRr p s
  | .decRr p => Sys2Proof.Machine.execDecRr p s
  | .addSpE8 e => Sys2Proof.Machine.execAddSpE8 e s
  | .rlca => Sys2Proof.Machine.execRlca s
  | .rrca => Sys2Proof.Machine.execRrca s
  | .rla => Sys2Proof.Machine.execRla s
  | .rra => Sys2Proof.Machine.execRra s
  | .jpN16 n => Sys2Proof.Machine.execJpN16 n s
  | .jpCcN16 cc n => Sys2Proof.Machine.execJpCcN16 cc n s
  | .jpHl => Sys2Proof.Machine.execJpHl s
  | .jrE8 e => Sys2Proof.Machine.execJrE8 e s
  | .jrCcE8 cc e => Sys2Proof.Machine.execJrCcE8 cc e s
  | .callN16 n => Sys2Proof.Machine.execCallN16 n s
  | .callCcN16 cc n => Sys2Proof.Machine.execCallCcN16 cc n s
  | .ret => Sys2Proof.Machine.execRet s
  | .retCc cc => Sys2Proof.Machine.execRetCc cc s
  | .reti => Sys2Proof.Machine.execReti s
  | .rstT t => Sys2Proof.Machine.execRstT t s
  | .nop => Sys2Proof.Machine.execNop s
  | .halt => Sys2Proof.Machine.execHalt s
  | .stop => Sys2Proof.Machine.execStop s
  | .di => Sys2Proof.Machine.execDi s
  | .ei => Sys2Proof.Machine.execEi s
  | .cbPrefix op2 => Sys2Proof.Machine.execCbPrefix op2 s
  | .illegalD3 => Sys2Proof.Machine.execIllegalD3 s
  | .illegalDB => Sys2Proof.Machine.execIllegalDB s
  | .illegalDD => Sys2Proof.Machine.execIllegalDD s
  | .illegalE3 => Sys2Proof.Machine.execIllegalE3 s
  | .illegalE4 => Sys2Proof.Machine.execIllegalE4 s
  | .illegalEB => Sys2Proof.Machine.execIllegalEB s
  | .illegalEC => Sys2Proof.Machine.execIllegalEC s
  | .illegalED => Sys2Proof.Machine.execIllegalED s
  | .illegalF4 => Sys2Proof.Machine.execIllegalF4 s
  | .illegalFC => Sys2Proof.Machine.execIllegalFC s
  | .illegalFD => Sys2Proof.Machine.execIllegalFD s
  | .rlcR r => Sys2Proof.Machine.execRlcR r s
  | .rlcHl => Sys2Proof.Machine.execRlcHl s
  | .rrcR r => Sys2Proof.Machine.execRrcR r s
  | .rrcHl => Sys2Proof.Machine.execRrcHl s
  | .rlR r => Sys2Proof.Machine.execRlR r s
  | .rlHl => Sys2Proof.Machine.execRlHl s
  | .rrR r => Sys2Proof.Machine.execRrR r s
  | .rrHl => Sys2Proof.Machine.execRrHl s
  | .slaR r => Sys2Proof.Machine.execSlaR r s
  | .slaHl => Sys2Proof.Machine.execSlaHl s
  | .sraR r => Sys2Proof.Machine.execSraR r s
  | .sraHl => Sys2Proof.Machine.execSraHl s
  | .swapR r => Sys2Proof.Machine.execSwapR r s
  | .swapHl => Sys2Proof.Machine.execSwapHl s
  | .srlR r => Sys2Proof.Machine.execSrlR r s
  | .srlHl => Sys2Proof.Machine.execSrlHl s
  | .bitBR b r => Sys2Proof.Machine.execBitBR b r s
  | .bitBHl b => Sys2Proof.Machine.execBitBHl b s
  | .resBR b r => Sys2Proof.Machine.execResBR b r s
  | .resBHl b => Sys2Proof.Machine.execResBHl b s
  | .setBR b r => Sys2Proof.Machine.execSetBR b r s
  | .setBHl b => Sys2Proof.Machine.execSetBHl b s
  | .intVblank => Sys2Proof.Machine.execIntVblank s
  | .intStat => Sys2Proof.Machine.execIntStat s
  | .intTimer => Sys2Proof.Machine.execIntTimer s
  | .intSerial => Sys2Proof.Machine.execIntSerial s
  | .intJoypad => Sys2Proof.Machine.execIntJoypad s

end Sys2Proof.Machine
end

