-- ==== Sys2Proof/Machine/Video.lean ====
section
/-! DEFINITION. The video unit (60_exceptions.md rules R335 to R347): scanline state machine, interrupt requests, pixels, output
buffer. It reads video RAM, OAM and palette RAM directly (R338). -/

namespace Sys2Proof.Machine

/-! ## Registers -/

/-- `LCDC[7]`: the display is on. -/
def lcdOn (s : State) : Bool := bit (s.io .lcdc) 7

/-- `STAT[1:0]` (R335). -/
def lcdMode (s : State) : BitVec 2 := (s.io .stat).extractLsb' 0 2

/-- `mode <- m`, mirrored in `STAT[1:0]` (R335). -/
def setMode (m : BitVec 2) (s : State) : State := s.setIo .stat ((s.io .stat).extractLsb' 2 6 ++ m)

/-- A byte of video RAM at window address `n`. -/
def vramByte (s : State) (bank n : Nat) : Byte := s.cell (vramKey bank n)

/-- A byte of object-attribute memory. -/
def oamByte (s : State) (i : Nat) : Byte := s.cell (oamKey i)

/-! ## OAM scan (R337) -/

/-- The height of a sprite. -/
def spriteHeight (s : State) : Nat := if bit (s.io .lcdc) 2 then 16 else 8

/-- `Y <= ly + 16 < Y + h`. -/
def spriteOnLine (s : State) (k : Nat) : Bool :=
  let y := (oamByte s (4 * k)).toNat
  decide (y ≤ s.video.ly + 16) && decide (s.video.ly + 16 < y + spriteHeight s)

/-- The first ten sprites, by ascending OAM index, that cover the line. -/
def oamScan (s : State) : List Nat := ((List.range 40).filter (spriteOnLine s)).take 10

/-! ## Background and window (R343, R345) -/

/-- Whether the window covers pixel `x` of the line. -/
def windowCovers (s : State) (x : Nat) : Bool :=
  bit (s.io .lcdc) 5 && decide ((s.io .wy).toNat ≤ s.video.ly) && decide ((s.io .wx).toNat ≤ x + 7)

/-- A position in a tile map: the map's base address, the column and the row in pixels. -/
structure MapPos where
  base : Nat
  px : Nat
  py : Nat
  deriving DecidableEq, Repr

/-- The map position of pixel `x`. -/
def mapPos (s : State) (x : Nat) : MapPos :=
  if windowCovers s x then
    { base := if bit (s.io .lcdc) 6 then 0x9C00 else 0x9800
      px := x + 7 - (s.io .wx).toNat
      py := s.video.winLine }
  else
    { base := if bit (s.io .lcdc) 3 then 0x9C00 else 0x9800
      px := (x + (s.io .scx).toNat) % 256
      py := (s.video.ly + (s.io .scy).toNat) % 256 }

/-- The address of the map entry: `map + 32 * (py >> 3) + (px >> 3)`. -/
def MapPos.entry (p : MapPos) : Nat := p.base + 32 * (p.py / 8) + p.px / 8

/-- The tile data address: `0x8000 + 16 * t` if `LCDC[4]`, else `0x9000 + 16 * s8(t)`. -/
def tileData (s : State) (t : Byte) : Nat :=
  if bit (s.io .lcdc) 4 then 0x8000 + 16 * t.toNat
  else if t.toNat < 128 then 0x9000 + 16 * t.toNat
  else 0x8000 + 16 * t.toNat

/-- The two-bit colour index of bit `b` of the row at address `n`: `(hi[b] << 1) | lo[b]`. -/
def colourIndex (s : State) (bank n b : Nat) : Nat :=
  bitNat (bit (vramByte s bank (n + 1)) b) * 2 + bitNat (bit (vramByte s bank n) b)

/-- The attribute byte of a map entry, at the same address in bank 1 (R345). -/
def mapAttr (s : State) (p : MapPos) : Byte := vramByte s 1 p.entry

/-- The monochrome background index; `LCDC[0]` = 0 makes it 0 (R343). -/
def bgIndexMono (s : State) (x : Nat) : Nat :=
  let p := mapPos s x
  let n := tileData s (vramByte s 0 p.entry) + 2 * (p.py % 8)
  if bit (s.io .lcdc) 0 then colourIndex s 0 n (7 - p.px % 8) else 0

/-- The colour background index, with the tile's bank and flips (R345). -/
def bgIndexColour (s : State) (x : Nat) : Nat :=
  let p := mapPos s x
  let at1 := mapAttr s p
  let row := if bit at1 6 then 7 - p.py % 8 else p.py % 8
  let col := if bit at1 5 then p.px % 8 else 7 - p.px % 8
  colourIndex s (if bit at1 3 then 1 else 0) (tileData s (vramByte s 0 p.entry) + 2 * row) col

/-! ## Sprites (R344) -/

/-- A sprite's pixel at a screen column: the sprite's X and OAM index, its attributes, its colour index. -/
structure SpritePixel where
  x : Nat
  k : Nat
  attr : Byte
  sidx : Nat
  deriving DecidableEq, Repr

/-- The address of a sprite's tile row: data from 0x8000, bit 0 of the tile number ignored in 16-line mode, the row flipped if
`attributes[6]`. An address outside video RAM, which only a change of `Y` or of the height within the line can make, is taken
modulo its size (log 22). -/
def spriteRow (s : State) (k : Nat) (attr : Byte) : Nat :=
  let h : Int := spriteHeight s
  let r : Int := (s.video.ly : Int) + 16 - (oamByte s (4 * k)).toNat
  let row := if bit attr 6 then h - 1 - r else r
  let t := (oamByte s (4 * k + 2)).toNat
  let tile : Int := if bit (s.io .lcdc) 2 then t / 2 * 2 else t
  0x8000 + ((16 * tile + 2 * row) % 0x2000).toNat

/-- Sprite `k` at pixel `x`: covering (`X <= x + 8 < X + 8`) and not transparent, or none. -/
def spritePixel (s : State) (x k : Nat) : Option SpritePixel :=
  let sx := (oamByte s (4 * k + 1)).toNat
  let attr := oamByte s (4 * k + 3)
  if sx ≤ x + 8 ∧ x + 8 < sx + 8 then
    let col := x + 8 - sx
    let bank := if s.cfg.cgb && bit attr 3 then 1 else 0
    let sidx := colourIndex s bank (spriteRow s k attr) (if bit attr 5 then col else 7 - col)
    if sidx = 0 then none else some { x := sx, k := k, attr := attr, sidx := sidx }
  else none

/-- The sprite with the smaller X, then the smaller OAM index. -/
def betterSprite (p q : SpritePixel) : SpritePixel := if q.x < p.x ∨ (q.x = p.x ∧ q.k < p.k) then q else p

/-- The winner among the candidates of a list. -/
def bestSprite (s : State) (x : Nat) : List Nat → Option SpritePixel
  | [] => none
  | k :: rest =>
    match spritePixel s x k, bestSprite s x rest with
    | some p, some q => some (betterSprite p q)
    | some p, none => some p
    | none, q => q

/-- The sprite shown at a column if its priority allows it. -/
def spriteAt (s : State) (x : Nat) : Option SpritePixel :=
  if bit (s.io .lcdc) 1 then bestSprite s x s.video.sprites else none

/-! ## Colours -/

/-- `GRAY[g]` (R343). -/
def gray (c : Params) (g : Nat) : Rgba :=
  match g with
  | 0 => c.gray0
  | 1 => c.gray1
  | 2 => c.gray2
  | _ => c.gray3

/-- `pal[2*idx+1 : 2*idx]`. -/
def shade (pal : Byte) (idx : Nat) : Nat := pal.toNat / 4 ^ idx % 4

/-- A 5-bit channel as a byte: `(v * 255 + 15) div 31` (R345). -/
def channelByte (v : BitVec 5) : Byte := BitVec.ofNat 8 ((v.toNat * 255 + 15) / 31)

/-- A 15-bit palette entry as R, G, B, A. -/
def rgbaOf (c : Word) : Rgba :=
  channelByte (c.extractLsb' 0 5) ++ channelByte (c.extractLsb' 5 5) ++ channelByte (c.extractLsb' 10 5) ++ (0xFF : Byte)

/-- Colour `idx` of palette `p` of the palette RAM at `key`, little-endian. -/
def palColour (s : State) (key : Nat → Nat) (p idx : Nat) : Rgba :=
  rgbaOf (join16 (s.cell (key (8 * p + 2 * idx + 1))) (s.cell (key (8 * p + 2 * idx))))

/-! ## Pixels -/

/-- The output of pixel `x` in monochrome mode (R343, R344). -/
def pixelMono (s : State) (x : Nat) : Rgba :=
  let idx := bgIndexMono s x
  let bg := gray s.cfg (shade (s.io .bgp) idx)
  match spriteAt s x with
  | some p =>
    if bit p.attr 7 && decide (idx ≠ 0) then bg
    else gray s.cfg (shade (if bit p.attr 4 then s.io .obp1 else s.io .obp0) p.sidx)
  | none => bg

/-- The output of pixel `x` in colour mode (R345). With `LCDC[0]` = 0 sprites are always on top; otherwise a priority bit of
the sprite or of the map entry keeps a non-zero background in front. -/
def pixelColour (s : State) (x : Nat) : Rgba :=
  let at1 := mapAttr s (mapPos s x)
  let idx := bgIndexColour s x
  let bg := palColour s bgPalKey (at1.toNat % 8) idx
  match spriteAt s x with
  | some p =>
    if bit (s.io .lcdc) 0 && (bit p.attr 7 || bit at1 7) && decide (idx ≠ 0) then bg
    else palColour s objPalKey (p.attr.toNat % 8) p.sidx
  | none => bg

/-- Pixel `x` of the current line. -/
def pixel (s : State) (x : Nat) : Rgba := if s.cfg.cgb then pixelColour s x else pixelMono s x

/-- Whether the background pixel at column `x` is not 0. -/
def bgNonZero (s : State) (x : Nat) : Bool := decide ((if s.cfg.cgb then bgIndexColour s x else bgIndexMono s x) ≠ 0)

/-- The background priority bit at column `x`: bit 7 of the map entry's attributes in colour mode. -/
def bgOnTop (s : State) (x : Nat) : Bool := s.cfg.cgb && bit (mapAttr s (mapPos s x)) 7

/-- Entry `x` of a scratch buffer takes the value `b`. -/
def setColumn (v : BitVec 160) (x : Nat) (b : Bool) : BitVec 160 :=
  let m := BitVec.twoPow 160 x
  if b then v ||| m else v &&& ~~~m

/-- Stores a pixel at buffer index `i`. -/
def Frame.set (f : Frame) (i : Nat) (v : Rgba) : Frame := { f with cells := Sparse.set f.base f.cells i v }

/-- The pixel at buffer index `i`. -/
def Frame.get (f : Frame) (i : Nat) : Rgba := Sparse.get f.base f.cells i

/-- The pixel at column `x` of line `y` of the output buffer (R347). -/
def framePixel (s : State) (x y : Nat) : Rgba := s.video.frame.get (160 * y + x)

/-- Pixel transfer (R338): pixel `x` is computed and stored, with its two bits in the scratch buffers (R42), which no pixel reads:
both bits are computed afresh for each (R335, log 22). A pixel of the window marks the line (R339). -/
def producePixel (x : Nat) (s : State) : State :=
  { s with video := { s.video with
      frame := s.video.frame.set (s.video.ly * 160 + x) (pixel s x)
      winDrawn := s.video.winDrawn || windowCovers s x
      bgPriority := setColumn s.video.bgPriority x (bgOnTop s x)
      bgDrawn := setColumn s.video.bgDrawn x (bgNonZero s x) } }

/-! ## Scanline state machine (R336) -/

/-- Line compare (R341): the match flag is latched, and requests the interrupt if enabled. -/
def lineCompare (s : State) : State :=
  let m := decide ((s.io .lyc).toNat = s.video.ly)
  let st := s.io .stat
  (s.setIo .stat (st.extractLsb' 3 5 ++ BitVec.ofBool m ++ st.extractLsb' 0 2)).requestIf (m && bit st 6) .stat

/-- On line 0 a new frame begins: the window line counter is 0 and the scratch buffers are cleared (R336, R42). -/
def newFrame (v : Video) : Video := if v.ly = 0 then { v with winLine := 0, bgPriority := 0, bgDrawn := 0 } else v

/-- The start of a visible line: new frame on line 0, line compare, OAM scan (R336, R337, R341, R342). -/
def visibleLineStart (s : State) : State :=
  let s1 := { s with video := { newFrame s.video with winDrawn := false } }
  let s2 := lineCompare s1
  let s3 := { s2 with video := { s2.video with sprites := oamScan s2 } }
  (setMode 2 s3).requestIf (bit (s3.io .stat) 5) .stat

/-- The start of a line of the vertical blank: mode 1; line 144 raises the VBlank interrupt; line compare (R340, R341). -/
def vblankLineStart (s : State) : State :=
  let s1 := setMode 1 s
  let s2 := if s1.video.ly = 144 then (s1.request .vblank).requestIf (bit (s1.io .stat) 4) .stat else s1
  lineCompare s2

/-- HBlank (R339). -/
def hblank (s : State) : State :=
  let s1 := hblankDma (setMode 0 s)
  let s2 := s1.requestIf (bit (s1.io .stat) 3) .stat
  { s2 with video := { s2.video with winLine := if s2.video.winDrawn then s2.video.winLine + 1 else s2.video.winLine } }

/-- The action at the current position. -/
def videoAct (s : State) : State :=
  if s.video.ly < 144 then
    if s.video.dot = 0 then visibleLineStart s
    else if s.video.dot = 80 then setMode 3 s
    else if s.video.dot = s.cfg.hblankDot then hblank s
    else if s.cfg.pixelStartDot ≤ s.video.dot ∧ s.video.dot < s.cfg.pixelStartDot + 160 then
      producePixel (s.video.dot - s.cfg.pixelStartDot) s
    else s
  else if s.video.dot = 0 then vblankLineStart s
  else s

/-- The next position. -/
def videoAdvance (s : State) : State :=
  if s.video.dot + 1 = Config.dotsPerLine then
    { s with video := { s.video with
        dot := 0
        ly := if s.video.ly + 1 = Config.linesPerFrame then 0 else s.video.ly + 1 } }
  else { s with video := { s.video with dot := s.video.dot + 1 } }

/-- The display is off (R346): a blank buffer, position and mode held at 0, no request. -/
def videoOff (s : State) : State :=
  let s1 := setMode 0 s
  { s1 with video := { s1.video with dot := 0, ly := 0, frame := { base := s.cfg.blankRgba, cells := [] } } }

/-- The video step of a tick. -/
def videoStep (s : State) : State := if lcdOn s then videoAdvance (videoAct s) else videoOff s

end Sys2Proof.Machine
end

