-- ==== Sys2Proof/Machine/Engine.lean ====
section
/-! DEFINITION. The engine's state machine (60_exceptions.md rules R303 to R305, R311 to R317), the session's frame boundary and
stop state (R313, R356, R359), and where a single instruction is placed to be run next. -/

namespace Sys2Proof.Machine

/-! ## Interrupt controller -/

/-- `pending = IF & IE & 0x1F` (R303). -/
def pending (s : State) : BitVec 5 := s.iflag &&& s.ie.extractLsb' 0 5

/-- The lowest set bit (R304). -/
def lowestIrq (p : BitVec 5) : Option Irq :=
  if p.getLsbD 0 then some .vblank
  else if p.getLsbD 1 then some .stat
  else if p.getLsbD 2 then some .timer
  else if p.getLsbD 3 then some .serial
  else if p.getLsbD 4 then some .joypad
  else none

/-- Step (2) of R311: the interrupt the next decode loads, or none. -/
def consult (s : State) : Option Irq := if s.cpu.ime then lowestIrq (pending s) else none

/-- The interrupt controller's answer is kept for the next decode. -/
def consultStep (s : State) : State := s.setCpu { s.cpu with nextInt := consult s }

/-! ## Completion (R311) -/

/-- Step (1): the `EI` delay counts down, and sets `IME` on reaching 0. -/
def eiStep (s : State) : State :=
  if s.cpu.eiDelay = 0 then s
  else s.setCpu { s.cpu with eiDelay := s.cpu.eiDelay - 1, ime := s.cpu.ime || decide (s.cpu.eiDelay = 1) }

/-- A halt state entered with a request pending is left at the same boundary (46_system.md rule R286, log 7). -/
def wakeAtBoundary (s : State) : State :=
  if s.cpu.halted && decide (pending s ≠ 0) then s.setCpu { s.cpu with halted := false } else s

/-- The completion of an instruction: `cur <- none`, then the completion step. -/
def completeStep (s : State) : State :=
  consultStep (wakeAtBoundary (eiStep (s.setCpu { s.cpu with cur := none })))

/-! ## Decode and execution (R316) -/

/-- The descriptor of entry `q` of the interrupt table. -/
def interruptInstr (q : Irq) : Instr :=
  match q with
  | .vblank => .intVblank
  | .stat => .intStat
  | .timer => .intTimer
  | .serial => .intSerial
  | .joypad => .intJoypad

/-- The instruction whose first byte `op` has been fetched; its other bytes are fetched here, in order. -/
def fetchRest (op : Byte) (s : State) : Instr × State :=
  match instrLength op with
  | 1 => (decodeOp op 0 0, s)
  | 2 =>
    let f1 := fetch8 s
    (decodeOp op f1.1 0, f1.2)
  | _ =>
    let f1 := fetch8 s
    let f2 := fetch8 f1.2
    (decodeOp op f1.1 f2.1, f2.2)

/-- The instruction at `pc`, every byte fetched through the bus with `pc` advanced past it (10_state.md rules R26, R27). -/
def fetchInstr (s : State) : Instr × State :=
  let f0 := fetch8 s
  fetchRest f0.1 f0.2

/-- The decode: the interrupt-table entry `next_int` names, without a fetch, or else the instruction at `pc` (R305, R316). -/
def decodeStep (s : State) : Instr × State :=
  match s.cpu.nextInt with
  | some q => (interruptInstr q, s.setCpu { s.cpu with nextInt := none })
  | none => fetchInstr s

/-- One tick of an instruction past its first: idle until its duration is over (70_reset_and_hazards.md rule R385). -/
def idleTick (s : State) : State :=
  let s' := s.setCpu { s.cpu with ustep := s.cpu.ustep + 1 }
  if s'.cpu.dur ≤ s'.cpu.ustep then completeStep s' else s'

/-- One call of the executor of `i`: its first tick has the whole effect (R385 "atomic", log 6), and its last completes it. -/
def executorStep (i : Instr) (s : State) : Result :=
  if s.cpu.ustep = 0 then
    match exec i s with
    | .next s' => .next (idleTick s')
    | .fault r => .fault r
    | .refused r => .refused r
  else .next (idleTick s)

/-- One tick of the halt state (R312). -/
def haltTick (s : State) : State :=
  if pending s ≠ 0 then consultStep (s.setCpu { s.cpu with halted := false }) else s

/-- The decode of a new instruction and its first executor call, which share a tick (R316). -/
def startStep (s : State) : Result :=
  let p := decodeStep s
  executorStep p.1 (p.2.setCpu { p.2.cpu with cur := some p.1, ustep := 0 })

/-- The engine step of a tick (R316, R317). The halt state begins when the `HALT` has completed (log 7). -/
def engineStep (s : State) : Result :=
  if 0 < s.hdma.stall then .next { s with hdma := { s.hdma with stall := s.hdma.stall - 1 } }
  else if s.cfg.oamDmaStallsCpu && decide (0 < s.dma.left) then .next s
  else
    match s.cpu.cur with
    | some i => executorStep i s
    | none => if s.cpu.halted then .next (haltTick s) else startStep s

/-! ## The session (R313, R356, R358, R359) -/

/-- The controller mask of the next frame (R359; log 10). -/
def nextMask (s : State) : BitVec 8 := Config.controllerMask s.session.frameNo

/-- The frame call takes the next mask. -/
def takeMask (s : State) : State :=
  { s with joy := { s.joy with mask := nextMask s }
           session := { s.session with frameNo := s.session.frameNo + 1 } }

/-- A frame call begins on its first tick. -/
def beginFrame (s : State) : State := if s.session.frameTick = 0 then takeMask s else s

/-- A frame call ends: the sample buffer is handed out, a new one begins (R356), and the next call is to begin. -/
def endFrame (s : State) : State :=
  { s with session := { s.session with frameTick := 0 }
           audio := { s.audio with out := bufferPairs s, pairs := [] } }

/-- The tick count of the frame call advances; its last tick ends the call (R358). -/
def endTick (s : State) : State :=
  if s.session.frameTick + 1 = Config.ticksPerFrame then endFrame s
  else { s with session := { s.session with frameTick := s.session.frameTick + 1 } }

/-- Whether the clock is stopped: `STOP` has completed (46_system.md rule R287). -/
def clockStopped (s : State) : Bool := s.cpu.stopped && s.cpu.cur.isNone

/-- The frame call in which the clock stops has no further tick, so it ends there (R313, log 9). -/
def endIfStopped (s : State) : State := if clockStopped s then endFrame s else s

/-- The audio and video steps that follow the engine's in a tick, and the end of the tick. -/
def afterEngine (s : State) : State := endIfStopped (endTick (videoStep (audioStep s)))

/-- One tick: bus, engine, audio, video (R358). -/
def tick (s : State) : Result :=
  match engineStep (busStep (beginFrame s)) with
  | .next s' => .next (afterEngine s')
  | .fault r => .fault r
  | .refused r => .refused r

/-- The stop state is left (R313). -/
def restart (s : State) : State := s.setCpu { s.cpu with stopped := false }

/-- A frame call while the clock is stopped (R313): without a button pressed in its mask no tick is made and nothing but the mask
changes; with one, the stop state is left and this is the first tick of the call (log 9). -/
def stoppedCall (s : State) : Result := if anyButton (nextMask s) then tick (restart s) else .next (takeMask s)

/-! ## Placing one instruction -/

/-- The key of the stored byte an address is fetched from, where there is one. -/
def storedKey (s : State) (a : Word) : Option Nat :=
  match place s a with
  | .rom k => k
  | .ram k => some k
  | _ => none

/-- The state with the engine between instructions, running, with no stall and no transfer to hide memory. -/
def readyToFetch (s : State) : State :=
  { s.setCpu { s.cpu with cur := none, halted := false, stopped := false, nextInt := none } with
      hdma := { s.hdma with stall := 0 }
      dma := { s.dma with left := 0 } }

/-- Stores three bytes where `pc` fetches them, if each of the three addresses is a stored byte; else in work RAM, with `pc`
moved there. -/
def placeBytes (s : State) (b0 b1 b2 : Byte) : State :=
  match storedKey s s.cpu.pc, storedKey s (s.cpu.pc + 1), storedKey s (s.cpu.pc + 2) with
  | some k0, some k1, some k2 => ((s.setCell k0 b0).setCell k1 b1).setCell k2 b2
  | _, _, _ =>
    (((s.setPc 0xC000).setCell (wramKey 0 0xC000) b0).setCell (wramKey 0 0xC001) b1).setCell (wramKey 0 0xC002) b2

/-- The instruction whose bits are `w`, its first byte in bits 7 to 0, placed to be the next one run. -/
def placeWord (s : State) (nbits w : Nat) : State :=
  let v := w % 2 ^ nbits
  placeBytes (readyToFetch s) (BitVec.ofNat 8 v) (BitVec.ofNat 8 (v / 256)) (BitVec.ofNat 8 (v / 65536))

end Sys2Proof.Machine
end

