-- ==== Sys2Proof/Machine/Step.lean ====
section
/-! DEFINITION. One step of the machine is one master-clock tick (00_scope.md rule R12, 60_exceptions.md rule R358), or, while
the clock is stopped, a frame call that makes no tick (R313). -/

namespace Sys2Proof.Machine

/-- One step. -/
def step (s : State) : Host.Outcome State Fault Refusal :=
  if clockStopped s then stoppedCall s else tick s

/-- The state with the instruction whose bits are `w` stored where the next step fetches (log 1). -/
def State.withFetchWord (s : State) (nbits w : Nat) : State := placeWord s nbits w

end Sys2Proof.Machine
end

