-- ==== Sys2Proof/Machine/HostPort.lean ====
section
/-! DEFINITION. What the host does outside a tick (60_exceptions.md rule R359): construction with its refusals (20_memory.md rules
R105, R106; 70_reset_and_hazards.md rules R370 to R376), a frame call with the two buffers it returns (60_exceptions.md rules
R347, R356), and the query and replacement of cartridge RAM and of the clock's offset between frames (20_memory.md rule R107).
These are functions of the host, not steps of the machine (log 24). -/

namespace Sys2Proof.Machine

/-! ## Construction -/

/-- What the type byte of a header declares. Which byte value means what is outside the model (91_not_in_source.md N12). -/
inductive HeaderType where
  /-- One of the four variants of R95. -/
  | variant (k : MbcKind)
  /-- A mapper "reduced to no-ops" (R106). -/
  | noOpMapper (name : String)
  /-- No recognised type. -/
  | unknown
  deriving DecidableEq, Repr

/-- What a launch supplies: the images, what the header declares, the session's mode, the OPEN parameters, and the values R371
leaves unspecified. -/
structure Launch where
  rom : List Byte
  boot : Option (List Byte)
  cartRam : List Byte
  headerType : HeaderType
  /-- The ROM banks the header declares. -/
  romBanks : Nat
  /-- The RAM banks the header declares; none for an unsupported RAM-size code. -/
  ramBanks : Option Nat
  battery : Bool
  cgb : Bool
  /-- The OPEN parameters, or none for the defaults of the mode; the fields above are written over them. -/
  params : Option Params
  init : Init
  deriving DecidableEq, Repr

/-- The variant a header declares, or the refusal (R105, R106). -/
def mbcOfType (h : HeaderType) : Except Refusal MbcKind :=
  match h with
  | .variant k => .ok k
  | .noOpMapper name => .error (.noOpMapper name)
  | .unknown => .error .unknownHeaderType

/-- The RAM bank count a header declares, or the refusal (R105). -/
def ramBanksOf (n : Option Nat) : Except Refusal Nat :=
  match n with
  | some k => .ok k
  | none => .error .unsupportedRamSize

/-- Which boot ROM a buffer is (R376). DESIGN CHOICE (log 30): "two fixed sizes, one per hardware generation" (R359) is read as two
sizes either of which a session of either mode accepts. -/
def bootOf (b : Option (List Byte)) : Except Refusal BootRom :=
  match b with
  | none => .ok .absent
  | some l =>
    if l.length = 256 then .ok .bytes256
    else if l.length = 2304 then .ok .bytes2304
    else .error .bootRomSize

/-- The image is at least as long as its header declares (R105); a ROM bank is 16 KiB (R95). -/
def checkImage (l : Launch) : Except Refusal Unit :=
  if l.rom.length < l.romBanks * 0x4000 then .error .imageTooShort else .ok ()

/-- The byte arrays at construction: the launch's contents with the images loaded over them. Byte `i` of cartridge RAM is
`cart_ram[i]`, bank `i / 8192` (R102). -/
def launchMemory (l : Launch) : Memory :=
  let m1 := Memory.load romKey l.init.mem 0 l.rom
  let m2 := Memory.load bootKey m1 0 (l.boot.getD [])
  Memory.load (fun i => cartRamKey (i / 8192) (0xA000 + i % 8192)) m2 0 l.cartRam

/-- The number of 16 KiB banks in an image of `n` bytes, a partly filled last one included (R95, log 27). -/
def imageBanks (n : Nat) : Nat := ceilDiv n 0x4000

/-- The parameters of the session, the OPEN ones as the launch gives them or else at the defaults of its mode (R6). `NB` is the number of banks in the image, which may be longer than its header declares
(R95). -/
def launchParams (l : Launch) (mbc : MbcKind) (nr : Nat) (boot : BootRom) : Params :=
  { l.params.getD (Params.defaultFor l.cgb) with
      cgb := l.cgb, mbc := mbc, boot := boot, battery := l.battery, ramBanks := nr
      romBanks := imageBanks l.rom.length, romSize := l.rom.length }

/-- Construction: the state after it (10_state.md rule R44), or the reason no machine exists. -/
def construct (l : Launch) : Except Refusal State :=
  match mbcOfType l.headerType, checkImage l, ramBanksOf l.ramBanks, bootOf l.boot with
  | .error e, _, _, _ => .error e
  | _, .error e, _, _ => .error e
  | _, _, .error e, _ => .error e
  | _, _, _, .error e => .error e
  | .ok k, .ok (), .ok nr, .ok boot =>
    .ok (resetWith (launchParams l k nr boot) { l.init with mem := launchMemory l })

/-! ## Frame calls (R347, R356, R359) -/

/-- The host acts between frame calls only (R359): no tick of the next call has been made. The call in which the clock stops ends
there (`endIfStopped`), so a stopped machine is between calls. -/
def atFrameBoundary (s : State) : Bool := decide (s.session.frameTick = 0)

/-- The four bytes of a pixel in the order R, G, B, A (R347). -/
def rgbaBytes (c : Rgba) : List Byte := [c.extractLsb' 24 8, c.extractLsb' 16 8, c.extractLsb' 8 8, c.extractLsb' 0 8]

/-- The output buffer as bytes, row by row. -/
def pixelBuffer (s : State) : List Byte := (List.range (144 * 160)).flatMap (fun i => rgbaBytes (s.video.frame.get i))

/-- What a frame call returns. -/
structure FrameResult where
  pixels : List Byte
  samples : List Int
  deriving DecidableEq, Repr

/-- The two buffers, which the host sees at frame boundaries only. -/
def frameResult (s : State) : Option FrameResult :=
  if atFrameBoundary s then some { pixels := pixelBuffer s, samples := sampleBuffer s } else none

/-- Steps until the next frame boundary, at most `n` of them. -/
def runFrame : Nat → State → State
  | 0, s => s
  | n + 1, s =>
    match step s with
    | .next t => if atFrameBoundary t then t else runFrame n t
    | _ => s

/-- One frame call, made at a frame boundary: what it returns, and the state after it. Its mask is that of `nextMask`
(log 10). -/
def frameCall (s : State) : Option FrameResult × State :=
  let t := runFrame Config.ticksPerFrame s
  (frameResult t, t)

/-! ## Cartridge RAM and the clock between frames (R107) -/

/-- The battery-backed cartridge RAM, if the cartridge declares battery backing. -/
def queryCartRam (s : State) : Option (List Byte) :=
  if s.cfg.battery && atFrameBoundary s then
    some ((List.range (s.cfg.ramBanks * 8192)).map (fun i => s.cell (cartRamKey (i / 8192) (0xA000 + i % 8192))))
  else none

/-- Replaces the battery-backed cartridge RAM. -/
def replaceCartRam (bytes : List Byte) (s : State) : Option State :=
  if s.cfg.battery && atFrameBoundary s && decide (bytes.length = s.cfg.ramBanks * 8192) then
    some { s with mem := Memory.load (fun i => cartRamKey (i / 8192) (0xA000 + i % 8192)) s.mem 0 bytes }
  else none

/-- Whether the cartridge declares a clock. -/
def hasRtc (s : State) : Bool := decide (s.cfg.mbc = .mbc3 true)

/-- The clock's raw offset: days and seconds (R41). -/
def queryRtc (s : State) : Option (Int × Int) :=
  if hasRtc s && atFrameBoundary s then some (s.rtc.dayBase, s.rtc.secOffset) else none

/-- Replaces the clock's raw offset. -/
def replaceRtc (dayBase secOffset : Int) (s : State) : Option State :=
  if hasRtc s && atFrameBoundary s then
    some { s with rtc := { s.rtc with dayBase := dayBase, secOffset := secOffset } }
  else none

end Sys2Proof.Machine
end

