-- ==== Sys2Proof/Safety.lean ====
section
/-! DEFINITION. What the statements about the machine are made of: the encoding of operand fields as bits, what it means that an
instruction runs, what an instruction may write, the run states of the engine, and the invariants a step keeps. -/

namespace Sys2Proof

/-! ## Operand fields as bits (00_scope.md rules R8, R11) -/

/-- The encoding index of a register: B 0, C 1, D 2, E 3, H 4, L 5, A 7. -/
def Reg8.bits : Reg8 → BitVec 3
  | .b => 0b000
  | .c => 0b001
  | .d => 0b010
  | .e => 0b011
  | .h => 0b100
  | .l => 0b101
  | .a => 0b111

/-- BC 0, DE 1, HL 2, SP 3. -/
def Pair.bits : Pair → BitVec 2
  | .bc => 0b00
  | .de => 0b01
  | .hl => 0b10
  | .sp => 0b11

/-- BC 0, DE 1, HL 2, AF 3. -/
def StackPair.bits : StackPair → BitVec 2
  | .bc => 0b00
  | .de => 0b01
  | .hl => 0b10
  | .af => 0b11

/-- NZ 0, Z 1, NC 2, C 3. -/
def Cond.bits : Cond → BitVec 2
  | .nz => 0b00
  | .z => 0b01
  | .nc => 0b10
  | .c => 0b11

/-- A byte `xx yyy zzz`. -/
def bits233 (x : BitVec 2) (y z : BitVec 3) : Byte := x ++ y ++ z

/-- A byte `xx pp zzzz`. -/
def bits224 (x p : BitVec 2) (z : BitVec 4) : Byte := x ++ p ++ z

/-- A byte `xxx cc zzz`. -/
def bits323 (x : BitVec 3) (c : BitVec 2) (z : BitVec 3) : Byte := x ++ c ++ z

/-- The low and the high byte of an immediate, in ascending addresses (30_encoding.md rule R123). -/
def immediate16 (n : Word) : List Byte := [n.extractLsb' 0 8, n.extractLsb' 8 8]

namespace Machine

/-! ## Running an instruction -/

/-- The state with the engine's part replaced by `c` and the duration of the current instruction set. -/
def State.lasting (s : State) (n : Nat) : State := s.setCpu { s.cpu with dur := n }

/-- The bytes `bs` are the instruction `i`, all of it and nothing else; and run in state `s`, with `pc` past those bytes
(10_state.md rule R26), it completes: it leaves the state `t` and lasts `n` ticks. -/
def Runs (i : Instr) (bs : List Byte) (s : State) (n : Nat) (t : State) : Prop :=
  encode i = bs ∧ decode bs = .ok (i, []) ∧ exec i s = .next (t.lasting n)

/-- The state after a read of the byte at `a`, and `A` set to `v`. -/
def State.withA (s : State) (v : Byte) : State := s.setCpu { s.cpu with a := v }

/-- The state with `A` and `F` replaced. -/
def State.withAF (s : State) (v : Byte) (f : Flags) : State := s.setCpu { s.cpu with a := v, f := f }

/-- The state with `F` replaced. -/
def State.withF (s : State) (f : Flags) : State := s.setCpu { s.cpu with f := f }

/-- `add8` as numbers (42_alu8.md rule R190): `r` and `f` are the result and the flags of `a + b + cin`. -/
def IsAdd8 (a b : Byte) (cin : Nat) (r : Byte) (f : Flags) : Prop :=
  r.toNat = (a.toNat + b.toNat + cin) % 256 ∧
  (f.z = true ↔ r.toNat = 0) ∧ f.n = false ∧
  (f.h = true ↔ a.toNat % 16 + b.toNat % 16 + cin > 0xF) ∧
  (f.c = true ↔ a.toNat + b.toNat + cin > 0xFF)

/-- `sub8` as numbers (R191): the result and the flags of `a - b - cin`. -/
def IsSub8 (a b : Byte) (cin : Nat) (r : Byte) (f : Flags) : Prop :=
  (r.toNat : Int) = ((a.toNat : Int) - b.toNat - cin) % 256 ∧
  (f.z = true ↔ r.toNat = 0) ∧ f.n = true ∧
  (f.h = true ↔ a.toNat % 16 < b.toNat % 16 + cin) ∧
  (f.c = true ↔ a.toNat < b.toNat + cin)

/-! ## The forms of an arithmetic operation on A (42_alu8.md, section 2) -/

/-- The three forms of an operation `alu[y]` that writes `A` and `F`: with a register, with the memory byte at `HL`, with an
immediate. `P a f x v g` says that the operation on `a` and the operand `x`, under the old flags `f`, gives `v` and the flags
`g`. -/
def AluForms (onReg : Reg8 → Instr) (onHl : Instr) (onImm : Byte → Instr) (y : BitVec 3)
    (P : Byte → Flags → Byte → Byte → Flags → Prop) (s : State) : Prop :=
  (∀ r : Reg8, ∃ v g, P s.cpu.a s.cpu.f (s.reg r) v g ∧
    Runs (onReg r) [bits233 2 y r.bits] s 4 (s.withAF v g)) ∧
  (∃ v g, P s.cpu.a s.cpu.f (cpuPeek s s.hl) v g ∧
    Runs onHl [bits233 2 y 6] s 8 ((cpuObserve s s.hl).withAF v g)) ∧
  (∀ n : Byte, ∃ v g, P s.cpu.a s.cpu.f n v g ∧
    Runs (onImm n) [bits233 3 y 6, n] s 8 (s.withAF v g))

/-- The flags of `sp + s8(e)`, from the unsigned addition of the low bytes (R178, R233). -/
def IsSpSum (sp : Word) (e : Byte) (v : Word) (g : Flags) : Prop :=
  v = BitVec.ofInt 16 ((sp.toNat : Int) + e.toInt) ∧ g.z = false ∧ g.n = false ∧
  (g.h = true ↔ sp.toNat % 16 + e.toNat % 16 > 0xF) ∧
  (g.c = true ↔ sp.toNat % 256 + e.toNat > 0xFF)

/-! ## The shift and rotate functions as numbers (44_rotate_shift_bit.md rule R239) -/

/-- The eight operations of the secondary table, `xx` = 0. -/
inductive ShiftOp where
  | rlc | rrc | rl | rr | sla | sra | swap | srl
  deriving DecidableEq, Repr

/-- `rot[y]` (30_encoding.md rule R127). -/
def ShiftOp.bits : ShiftOp → BitVec 3
  | .rlc => 0
  | .rrc => 1
  | .rl => 2
  | .rr => 3
  | .sla => 4
  | .sra => 5
  | .swap => 6
  | .srl => 7

/-- The result for a byte `v` and a carry-in `c`. -/
def ShiftOp.result (o : ShiftOp) (v c : Nat) : Nat :=
  match o with
  | .rlc => v * 2 % 256 + v / 128
  | .rrc => v / 2 + v % 2 * 128
  | .rl => v * 2 % 256 + c
  | .rr => v / 2 + c * 128
  | .sla => v * 2 % 256
  | .sra => v / 2 + v / 128 * 128
  | .swap => v % 16 * 16 + v / 16
  | .srl => v / 2

/-- The carry-out: bit 7, bit 0, or 0. -/
def ShiftOp.carry (o : ShiftOp) (v : Nat) : Bool :=
  match o with
  | .rlc | .rl | .sla => decide (v / 128 = 1)
  | .rrc | .rr | .sra | .srl => decide (v % 2 = 1)
  | .swap => false

/-- The register form. -/
def ShiftOp.onReg : ShiftOp → Reg8 → Instr
  | .rlc => .rlcR
  | .rrc => .rrcR
  | .rl => .rlR
  | .rr => .rrR
  | .sla => .slaR
  | .sra => .sraR
  | .swap => .swapR
  | .srl => .srlR

/-- The `(HL)` form. -/
def ShiftOp.onHl : ShiftOp → Instr
  | .rlc => .rlcHl
  | .rrc => .rrcHl
  | .rl => .rlHl
  | .rr => .rrHl
  | .sla => .slaHl
  | .sra => .sraHl
  | .swap => .swapHl
  | .srl => .srlHl

/-- `v` and `g` are the result and the flags of operation `o` on `x` with carry-in `c`; `Z` is set from the result. -/
def IsShift (o : ShiftOp) (x : Byte) (c : Bool) (v : Byte) (g : Flags) : Prop :=
  v.toNat = o.result x.toNat (if c then 1 else 0) ∧
  (g.z = true ↔ v.toNat = 0) ∧ g.n = false ∧ g.h = false ∧ g.c = o.carry x.toNat

/-! ## The stack (00_scope.md rule R10) -/

/-- `Push16(v)`: the high byte is written at `sp - 1`, then the low byte at `sp - 2`, where `sp` is left. -/
def State.pushed (s : State) (v : Word) : State :=
  (cpuWrite (s.cpu.sp - 2) (v.extractLsb' 0 8) (cpuWrite (s.cpu.sp - 1) (v.extractLsb' 8 8) s)).setSp (s.cpu.sp - 2)

/-- `Pop16()`: the low byte is read at `sp`, then the high byte at `sp + 1`; `sp` is left at `sp + 2`. -/
def State.popped (s : State) : Word × State :=
  let s1 := cpuObserve s s.cpu.sp
  (cpuPeek s1 (s.cpu.sp + 1) ++ cpuPeek s s.cpu.sp, (cpuObserve s1 (s.cpu.sp + 1)).setSp (s.cpu.sp + 2))

/-! ## What an instruction may write -/

/-- What an instruction may write besides a fetched `pc`: general registers (its destinations, and `HL` where its addressing mode
updates it); whether it writes a flag, `sp`, `pc`, `IME`; and the addresses it stores to, in the order of its stores, computed in
the state it runs in, with `pc` past its bytes. -/
structure Writes where
  regs : List Reg8 := []
  f : Bool := false
  sp : Bool := false
  pc : Bool := false
  ime : Bool := false
  stores : State → List Word := fun _ => []

/-- The two halves of a pair; `sp` is not one of the general registers. -/
def pairRegs : Pair → List Reg8
  | .bc => [.b, .c]
  | .de => [.d, .e]
  | .hl => [.h, .l]
  | .sp => []

/-- The registers of the stack group; `AF` is `A` and the flags. -/
def stackPairRegs : StackPair → List Reg8
  | .bc => [.b, .c]
  | .de => [.d, .e]
  | .hl => [.h, .l]
  | .af => [.a]

/-- A push stores at `sp - 1`, then at `sp - 2`. -/
def pushes (s : State) : List Word := [s.cpu.sp - 1, s.cpu.sp - 2]

/-- The table of what each instruction writes, from the `Operation:` and `Flags:` lines of the instruction rules (10_state.md
rules R22, R25, R28, R29; 60_exceptions.md rule R306). The first byte of an extended opcode writes nothing by itself; see
`selected`. -/
def writes : Instr → Writes
  | .ldRR rd _ => { regs := [rd] }
  | .ldRN8 r _ => { regs := [r] }
  | .ldRHl r => { regs := [r] }
  | .ldHlR _ => { stores := fun s => [s.hl] }
  | .ldHlN8 _ => { stores := fun s => [s.hl] }
  | .ldABc => { regs := [.a] }
  | .ldADe => { regs := [.a] }
  | .ldBcA => { stores := fun s => [s.bc] }
  | .ldDeA => { stores := fun s => [s.de] }
  | .ldAN16 _ => { regs := [.a] }
  | .ldN16A n => { stores := fun _ => [n] }
  | .ldhAC => { regs := [.a] }
  | .ldhCA => { stores := fun s => [highPage s.cpu.c] }
  | .ldhAN8 _ => { regs := [.a] }
  | .ldhN8A n => { stores := fun _ => [highPage n] }
  | .ldAHld => { regs := [.a, .h, .l] }
  | .ldHldA => { regs := [.h, .l], stores := fun s => [s.hl] }
  | .ldAHli => { regs := [.a, .h, .l] }
  | .ldHliA => { regs := [.h, .l], stores := fun s => [s.hl] }
  | .ldRrN16 p _ => { regs := pairRegs p, sp := decide (p = .sp) }
  | .ldN16Sp n => { stores := fun _ => [n, n + 1] }
  | .ldSpHl => { sp := true }
  | .ldHlSpE8 _ => { regs := [.h, .l], f := true }
  | .pushRs _ => { sp := true, stores := pushes }
  | .popRs q => { regs := stackPairRegs q, f := decide (q = .af), sp := true }
  | .popAf => { regs := [.a], f := true, sp := true }
  | .addAR _ => { regs := [.a], f := true }
  | .addAHl => { regs := [.a], f := true }
  | .addAN8 _ => { regs := [.a], f := true }
  | .adcAR _ => { regs := [.a], f := true }
  | .adcAHl => { regs := [.a], f := true }
  | .adcAN8 _ => { regs := [.a], f := true }
  | .subAR _ => { regs := [.a], f := true }
  | .subAHl => { regs := [.a], f := true }
  | .subAN8 _ => { regs := [.a], f := true }
  | .sbcAR _ => { regs := [.a], f := true }
  | .sbcAHl => { regs := [.a], f := true }
  | .sbcAN8 _ => { regs := [.a], f := true }
  | .andAR _ => { regs := [.a], f := true }
  | .andAHl => { regs := [.a], f := true }
  | .andAN8 _ => { regs := [.a], f := true }
  | .xorAR _ => { regs := [.a], f := true }
  | .xorAHl => { regs := [.a], f := true }
  | .xorAN8 _ => { regs := [.a], f := true }
  | .orAR _ => { regs := [.a], f := true }
  | .orAHl => { regs := [.a], f := true }
  | .orAN8 _ => { regs := [.a], f := true }
  | .cpAR _ => { f := true }
  | .cpAHl => { f := true }
  | .cpAN8 _ => { f := true }
  | .incR r => { regs := [r], f := true }
  | .incHl => { f := true, stores := fun s => [s.hl] }
  | .decR r => { regs := [r], f := true }
  | .decHl => { f := true, stores := fun s => [s.hl] }
  | .daa => { regs := [.a], f := true }
  | .cpl => { regs := [.a], f := true }
  | .scf => { f := true }
  | .ccf => { f := true }
  | .addHlRr _ => { regs := [.h, .l], f := true }
  | .incRr p => { regs := pairRegs p, sp := decide (p = .sp) }
  | .decRr p => { regs := pairRegs p, sp := decide (p = .sp) }
  | .addSpE8 _ => { f := true, sp := true }
  | .rlca => { regs := [.a], f := true }
  | .rrca => { regs := [.a], f := true }
  | .rla => { regs := [.a], f := true }
  | .rra => { regs := [.a], f := true }
  | .jpN16 _ => { pc := true }
  | .jpCcN16 _ _ => { pc := true }
  | .jpHl => { pc := true }
  | .jrE8 _ => { pc := true }
  | .jrCcE8 _ _ => { pc := true }
  | .callN16 _ => { sp := true, pc := true, stores := pushes }
  | .callCcN16 cc _ => { sp := true, pc := true, stores := fun s => if condHolds cc s.cpu.f then pushes s else [] }
  | .ret => { sp := true, pc := true }
  | .retCc _ => { sp := true, pc := true }
  | .reti => { sp := true, pc := true, ime := true }
  | .rstT _ => { sp := true, pc := true, stores := pushes }
  | .nop => {}
  | .halt => {}
  | .stop => {}
  | .di => { ime := true }
  | .ei => {}
  | .cbPrefix _ => {}
  | .illegalD3 => {}
  | .illegalDB => {}
  | .illegalDD => {}
  | .illegalE3 => {}
  | .illegalE4 => {}
  | .illegalEB => {}
  | .illegalEC => {}
  | .illegalED => {}
  | .illegalF4 => {}
  | .illegalFC => {}
  | .illegalFD => {}
  | .rlcR r => { regs := [r], f := true }
  | .rlcHl => { f := true, stores := fun s => [s.hl] }
  | .rrcR r => { regs := [r], f := true }
  | .rrcHl => { f := true, stores := fun s => [s.hl] }
  | .rlR r => { regs := [r], f := true }
  | .rlHl => { f := true, stores := fun s => [s.hl] }
  | .rrR r => { regs := [r], f := true }
  | .rrHl => { f := true, stores := fun s => [s.hl] }
  | .slaR r => { regs := [r], f := true }
  | .slaHl => { f := true, stores := fun s => [s.hl] }
  | .sraR r => { regs := [r], f := true }
  | .sraHl => { f := true, stores := fun s => [s.hl] }
  | .swapR r => { regs := [r], f := true }
  | .swapHl => { f := true, stores := fun s => [s.hl] }
  | .srlR r => { regs := [r], f := true }
  | .srlHl => { f := true, stores := fun s => [s.hl] }
  | .bitBR _ _ => { f := true }
  | .bitBHl _ => { f := true }
  | .resBR _ r => { regs := [r] }
  | .resBHl _ => { stores := fun s => [s.hl] }
  | .setBR _ r => { regs := [r] }
  | .setBHl _ => { stores := fun s => [s.hl] }
  | .intVblank => { sp := true, pc := true, ime := true, stores := pushes }
  | .intStat => { sp := true, pc := true, ime := true, stores := pushes }
  | .intTimer => { sp := true, pc := true, ime := true, stores := pushes }
  | .intSerial => { sp := true, pc := true, ime := true, stores := pushes }
  | .intJoypad => { sp := true, pc := true, ime := true, stores := pushes }

/-- The general registers an instruction writes. -/
def destRegs (i : Instr) : List Reg8 := (writes i).regs

/-- The instructions that write a flag (10_state.md rule R25). -/
def writesFlags (i : Instr) : Bool := (writes i).f

/-- The instructions that write `sp` (10_state.md rule R28). -/
def writesSp (i : Instr) : Bool := (writes i).sp

/-- The instructions that write `pc` otherwise than by being fetched (45_control.md, 60_exceptions.md rule R306). -/
def writesPc (i : Instr) : Bool := (writes i).pc

/-- The instructions that write `IME` (10_state.md rule R29); `EI` does so at a later completion. -/
def writesIme (i : Instr) : Bool := (writes i).ime

/-- The entries of the interrupt table. -/
def isInterruptEntry : Instr → Bool
  | .intVblank | .intStat | .intTimer | .intSerial | .intJoypad => true
  | _ => false

/-- The instruction an extended opcode stands for; every other instruction stands for itself (46_system.md rule R290). -/
def selected : Instr → Instr
  | .cbPrefix op2 => decodeSecondary op2
  | i => i

/-- The addresses an instruction stores to when it runs in state `s`. A conditional call that is not taken stores nothing. -/
def storedTo (i : Instr) (s : State) : List Word := (writes (selected i)).stores s

/-! ## Run states of the engine -/

/-- The state the engine sees on a tick: the frame call's mask taken, if one begins, and the bus stepped (60_exceptions.md rule
R358). -/
def engineView (s : State) : State := busStep (beginFrame s)

/-- Nothing suspends the engine on this tick (R317). -/
def NotStalled (u : State) : Prop :=
  u.hdma.stall = 0 ∧ (u.cfg.oamDmaStallsCpu = false ∨ u.dma.left = 0)

/-- The engine decodes on this tick: no instruction is in progress and it is not halted (R316). -/
def AtDecode (u : State) : Prop := NotStalled u ∧ u.cpu.cur = none ∧ u.cpu.halted = false

/-- A read of the byte at `a` has no effect: `a` is no clock register (20_memory.md rule R87). -/
def PlainRead (u : State) (a : Word) : Prop := ∀ r, place u a ≠ .clock r

/-! ## Devices -/

/-- The offsets of the registers of the block, from 0xFF00 up (20_memory.md rule R85). -/
def registerOffsets : List Nat :=
  [0x00, 0x01, 0x02, 0x04, 0x05, 0x06, 0x07, 0x0F, 0x10, 0x11, 0x12, 0x13, 0x14, 0x16, 0x17, 0x18, 0x19, 0x1A, 0x1B, 0x1C,
   0x1D, 0x1E, 0x20, 0x21, 0x22, 0x23, 0x24, 0x25, 0x26] ++
  [0x30, 0x31, 0x32, 0x33, 0x34, 0x35, 0x36, 0x37, 0x38, 0x39, 0x3A, 0x3B, 0x3C, 0x3D, 0x3E, 0x3F] ++
  [0x40, 0x41, 0x42, 0x43, 0x44, 0x45, 0x46, 0x47, 0x48, 0x49, 0x4A, 0x4B, 0x4F, 0x50, 0x51, 0x52, 0x53, 0x54, 0x55, 0x68,
   0x69, 0x6A, 0x6B, 0x70]

/-- The offsets of the registers marked "C" (R80, R85). -/
def colourOffsets : List Nat := [0x4F, 0x51, 0x52, 0x53, 0x54, 0x55, 0x68, 0x69, 0x6A, 0x6B, 0x70]

/-- The registers that are storage under their masks and nothing more (R74). -/
def plainRegisters : List IoReg :=
  [.sb, .sc, .tima, .tma, .tac, .nr10, .nr12, .nr13, .nr22, .nr23, .nr30, .nr32, .nr33, .nr42, .nr43, .nr50, .nr51,
   .lcdc, .scy, .scx, .lyc, .bgp, .obp0, .obp1, .wy, .wx]

/-- The bytes the arrays of the machine hold: each array with its bank and window address, or its offset (10_state.md rules R39,
R41; 60_exceptions.md rule R335). -/
inductive StoredByte where
  | rom (off : Nat)
  | boot (i : Nat)
  | vram (bank n : Nat)
  | cartRam (bank n : Nat)
  | wram (bank n : Nat)
  | oam (i : Nat)
  | register (r : IoReg)
  | highRam (n : Nat)
  | bgPalette (i : Nat)
  | objPalette (i : Nat)
  deriving DecidableEq, Repr

/-- The key a byte is stored at. -/
def StoredByte.key : StoredByte → Nat
  | .rom off => romKey off
  | .boot i => bootKey i
  | .vram bank n => vramKey bank n
  | .cartRam bank n => cartRamKey bank n
  | .wram bank n => wramKey bank n
  | .oam i => oamKey i
  | .register r => ioKey r
  | .highRam n => n
  | .bgPalette i => bgPalKey i
  | .objPalette i => objPalKey i

/-- The byte lies in its array: the address in the array's window (20_memory.md rule R64), or the offset within its size. -/
def StoredByte.Valid : StoredByte → Prop
  | .rom _ => True
  | .boot i => i < 2304
  | .vram _ n => 0x8000 ≤ n ∧ n ≤ 0x9FFF
  | .cartRam _ n => 0xA000 ≤ n ∧ n ≤ 0xBFFF
  | .wram _ n => 0xC000 ≤ n ∧ n ≤ 0xDFFF
  | .oam i => i < 160
  | .register _ => True
  | .highRam n => 0xFF80 ≤ n ∧ n ≤ 0xFFFE
  | .bgPalette i => i < 64
  | .objPalette i => i < 64

/-- An access to `a` finds nothing there: a read gives 0xFF and a write changes nothing, for the CPU as for the bus. -/
def NothingAt (s : State) (a : Word) : Prop :=
  peek s a = 0xFF ∧ observe s a = s ∧ cpuPeek s a = 0xFF ∧ cpuObserve s a = s ∧
  ∀ v, busWrite a v s = s ∧ cpuWrite a v s = s

/-- The byte stored at `k` is what a read of `a` gives and what a write of `a` changes, and nothing else. -/
def StoredAt (s : State) (a : Word) (k : Nat) : Prop :=
  peek s a = s.cell k ∧ observe s a = s ∧
  ∀ v, busWrite a v s = s.setCell k v ∧ peek (busWrite a v s) a = v

/-- No byte of the `n` from `src` on is one whose read leaves a trace, nor one of the `n` bytes of video RAM from offset `dst` on. -/
def PlainSource (s : State) (src dst n : Nat) : Prop :=
  ∀ j < n, PlainRead s (BitVec.ofNat 16 (src + j)) ∧
    ∀ i < n, place s (BitVec.ofNat 16 (src + j)) ≠ .ram (vramKey (vramBank s) (0x8000 + dst + i))

/-- From `s` to `t` the `n` bytes from `src` on, as a read gives them, were copied to video RAM from offset `dst` on, into the bank
that is selected, and nothing else changed but the state of the DMA (20_memory.md rule R83). -/
def CopiedToVram (s t : State) (src dst n : Nat) : Prop :=
  t = { s with mem := t.mem, hdma := t.hdma } ∧
  ∀ k, t.cell k =
    let base := vramKey (vramBank s) (0x8000 + dst)
    if base ≤ k ∧ k < base + n then peek s (BitVec.ofNat 16 (src + (k - base))) else s.cell k

/-- What a write of `v` leaves of a register of the block: the bits its write mask names (R74). -/
def State.masked (s : State) (r : IoReg) (old v : Byte) : Byte := (old &&& ~~~s.writeMask r) ||| (v &&& s.writeMask r)

/-- A palette port (60_exceptions.md rule R345): at `a` the byte of palette RAM that the index register names is read and written,
and bit 7 of the index register makes the index advance modulo 64 after a write. -/
def PalettePort (s : State) (a : Word) (port index : IoReg) (key : Nat → Nat) (v : Byte) : Prop :=
  let x := (s.io index).toNat
  let k := key (x % 64)
  peek s a = s.cell k ||| s.readOr port ∧
  busWrite a v s = (s.setCell k (s.masked port (s.cell k) v)).setIo index
    (BitVec.ofNat 8 (if 128 ≤ x then x / 64 * 64 + (x % 64 + 1) % 64 else x))

/-- A tick of a channel's period counter (60_exceptions.md rule R353): if the channel is enabled after the frame sequencer's step,
the counter goes down, or at its end takes `reload` while the phase becomes `next`; otherwise both stay. -/
def Ticked {w : Nat} (old new : Channel w) (reload : Nat) (next : BitVec w) : Prop :=
  if new.on = true ∧ old.timer.toNat ≤ 1 then new.timer = BitVec.ofNat 32 reload ∧ new.phase = next
  else new.timer = (if new.on then old.timer - 1 else old.timer) ∧ new.phase = old.phase

/-- The RAM bank the controller's registers request (R96 to R99). -/
def requestedRamBank (s : State) : Nat :=
  match s.cfg.mbc with
  | .noBanking => 0
  | .mbc1 => if s.mbc.mode then s.mbc.bankHi.toNat else 0
  | .mbc3 _ => s.mbc.ramSel.toNat
  | .mbc5 => s.mbc.ramSel.toNat

/-- A clock register is selected (R98). -/
def clockSelected (s : State) : Prop :=
  s.cfg.mbc = .mbc3 true ∧ 0x08 ≤ s.mbc.ramSel.toNat ∧ s.mbc.ramSel.toNat ≤ 0x0C

/-- The clock's stored offset in seconds (R103). -/
def Rtc.offset (r : Rtc) : Int := r.dayBase * 86400 + r.secOffset

/-- The offset of sprite data in OAM: byte `j` of entry `k` (60_exceptions.md rule R337). -/
def spriteByte (s : State) (k j : Nat) : Nat := (s.cell (oamKey (4 * k + j))).toNat

/-- Sprite `k` covers the current line: `Y <= ly + 16 < Y + h` (R337). -/
def CoversLine (s : State) (k : Nat) : Prop :=
  spriteByte s k 0 ≤ s.video.ly + 16 ∧
  s.video.ly + 16 < spriteByte s k 0 + (if (s.io .lcdc).getLsbD 2 then 16 else 8)

/-- The display's mode as `STAT[1:0]` shows it. -/
def statMode (s : State) : Nat := (s.io .stat).toNat % 4

/-! ## Invariants -/

/-- Memory has its canonical form. -/
abbrev State.memWf (s : State) : Prop := Memory.wf s.mem

/-- The engine's control state is one the rules give: `ei_delay` is 0, 1 or 2 (10_state.md rule R33), the halt state and the
stop state exclude each other (60_exceptions.md rule R320), an instruction in progress between two ticks has had its first
one (R316), and while the clock is stopped no frame call is under way (R313, log 9). -/
structure ControlOk (s : State) : Prop where
  eiDelay : s.cpu.eiDelay ≤ 2
  oneRest : s.cpu.halted = true → s.cpu.stopped = false
  started : s.cpu.cur ≠ none → 0 < s.cpu.ustep
  betweenCalls : clockStopped s = true → atFrameBoundary s = true

/-- The counters of the devices are in the ranges the rules give: the OAM DMA countdown (20_memory.md rule R81), the dot and
line counters and the sprite list (60_exceptions.md rules R335, R337), the tick of the frame (R358). -/
structure CountersOk (s : State) : Prop where
  dma : s.dma.left ≤ 160
  dot : s.video.dot < 456
  ly : s.video.ly < 154
  sprites : s.video.sprites.length ≤ 10
  tick : s.session.frameTick < 70224

/-- The pairs taken so far in this frame are as many as the cadence gives by this tick: pair `k` on tick
`k * 70224 div SAMPLES_PER_FRAME` (60_exceptions.md rule R356). -/
structure CadenceOk (s : State) : Prop where
  tick : s.session.frameTick < 70224
  count : s.audio.pairs.length =
    ((List.range s.cfg.samplesPerFrame).filter
      (fun k => decide (k * 70224 / s.cfg.samplesPerFrame < s.session.frameTick))).length

end Machine

end Sys2Proof
end

