-- ==== Sys2Proof/Certificates/Slice0/Obligations.lean ====
section
/-! DEFINITION. The statements for the provers. Each docstring names the rules of spec/ a statement formalises. -/

open Sys2Proof Sys2Proof.Machine

/-! ## Encoding -/

/-- Words written out from the encodings of spec/ (rules R124, R127) decode to the instructions they stand for. -/
def Obligations.WrittenWordsDecode : Prop :=
  decode [0b01000001] = .ok (.ldRR .b .c, []) ∧                              -- LD B,C
  decode [0b00110110, 0x5A] = .ok (.ldHlN8 0x5A, []) ∧                       -- LD (HL),0x5A
  decode [0b00000001, 0x34, 0x12] = .ok (.ldRrN16 .bc 0x1234, []) ∧          -- LD BC,0x1234
  decode [0b11110101] = .ok (.pushRs .af, []) ∧                              -- PUSH AF
  decode [0b10001011] = .ok (.adcAR .e, []) ∧                                -- ADC A,E
  decode [0b00111001] = .ok (.addHlRr .sp, []) ∧                             -- ADD HL,SP
  decode [0b00010111] = .ok (.rla, []) ∧                                     -- RLA
  decode [0b11001011, 0b00110111] = .ok (.swapR .a, []) ∧                    -- SWAP A
  decode [0b11001011, 0b01111100] = .ok (.bitBR 7 .h, []) ∧                  -- BIT 7,H
  decode [0b00111000, 0x05] = .ok (.jrCcE8 .c 0x05, []) ∧                    -- JR C,+5
  decode [0b11101111] = .ok (.rstT 5, []) ∧                                  -- RST 0x28
  decode [0b00010000, 0x00] = .ok (.stop, []) ∧                              -- STOP
  decode [0b11010011] = .ok (.illegalD3, [])                                 -- unassigned

/-- Every well-formed instruction that stands in the instruction stream is decoded back from its bytes, whatever follows them,
with every operand at every value (30_encoding.md). -/
def Obligations.EncodeThenDecode : Prop :=
  ∀ (i : Instr) (rest : List Byte), i.WellFormed = true → i.inStream = true → decode (encode i ++ rest) = .ok (i, rest)

/-- The other direction: what the decoder reads is well formed, never an entry of the interrupt table (R128), and its bytes are
the encoding; only the ignored byte after `STOP` is not kept (R130). Two bytes are missing at most: no byte value is refused
(R124, R127, R129). -/
def Obligations.DecodeThenEncode : Prop :=
  (∀ (bs rest : List Byte) (i : Instr), decode bs = .ok (i, rest) →
    i.WellFormed = true ∧ i.inStream = true ∧
    (encode i ++ rest = bs ∨ (i = .stop ∧ ∃ pad : Byte, bs = 0x10 :: pad :: rest))) ∧
  (∀ (op b1 b2 : Byte) (rest : List Byte), ∃ i r, decode (op :: b1 :: b2 :: rest) = .ok (i, r))

/-! ## Loads and the stack -/

/-- R150, R151: `LD r,r'` and `LD r,n8`. -/
def Obligations.RegisterLoads : Prop :=
  ∀ (s : State) (rd rs r : Reg8) (n : Byte),
    Runs (.ldRR rd rs) [bits233 1 rd.bits rs.bits] s 4 (s.setReg rd (s.reg rs)) ∧
    Runs (.ldRN8 r n) [bits233 0 r.bits 6, n] s 8 (s.setReg r n)

/-- R152, R155, R156, R159, R161, R163, R165, R167: the 8-bit loads from memory. -/
def Obligations.MemoryLoads : Prop :=
  ∀ (s : State) (r : Reg8) (a : Word) (n : Byte),
    let hiC : Word := 0xFF00 + s.cpu.c.zeroExtend 16
    let hiN : Word := 0xFF00 + n.zeroExtend 16
    Runs (.ldRHl r) [bits233 1 r.bits 6] s 8 ((cpuObserve s s.hl).setReg r (cpuPeek s s.hl)) ∧
    Runs .ldABc [0x0A] s 8 ((cpuObserve s s.bc).withA (cpuPeek s s.bc)) ∧
    Runs .ldADe [0x1A] s 8 ((cpuObserve s s.de).withA (cpuPeek s s.de)) ∧
    Runs (.ldAN16 a) (0xFA :: immediate16 a) s 16 ((cpuObserve s a).withA (cpuPeek s a)) ∧
    Runs .ldhAC [0xF2] s 8 ((cpuObserve s hiC).withA (cpuPeek s hiC)) ∧
    Runs (.ldhAN8 n) [0xF0, n] s 12 ((cpuObserve s hiN).withA (cpuPeek s hiN)) ∧
    Runs .ldAHld [0x3A] s 8 (((cpuObserve s s.hl).withA (cpuPeek s s.hl)).setHl (s.hl - 1)) ∧
    Runs .ldAHli [0x2A] s 8 (((cpuObserve s s.hl).withA (cpuPeek s s.hl)).setHl (s.hl + 1))

/-- R153, R154, R157, R158, R160, R162, R164, R166, R168: the 8-bit stores. -/
def Obligations.MemoryStores : Prop :=
  ∀ (s : State) (r : Reg8) (a : Word) (n : Byte),
    Runs (.ldHlR r) [bits233 1 6 r.bits] s 8 (cpuWrite s.hl (s.reg r) s) ∧
    Runs (.ldHlN8 n) [0x36, n] s 12 (cpuWrite s.hl n s) ∧
    Runs .ldBcA [0x02] s 8 (cpuWrite s.bc s.cpu.a s) ∧
    Runs .ldDeA [0x12] s 8 (cpuWrite s.de s.cpu.a s) ∧
    Runs (.ldN16A a) (0xEA :: immediate16 a) s 16 (cpuWrite a s.cpu.a s) ∧
    Runs .ldhCA [0xE2] s 8 (cpuWrite (0xFF00 + s.cpu.c.zeroExtend 16) s.cpu.a s) ∧
    Runs (.ldhN8A n) [0xE0, n] s 12 (cpuWrite (0xFF00 + n.zeroExtend 16) s.cpu.a s) ∧
    Runs .ldHldA [0x32] s 8 ((cpuWrite s.hl s.cpu.a s).setHl (s.hl - 1)) ∧
    Runs .ldHliA [0x22] s 8 ((cpuWrite s.hl s.cpu.a s).setHl (s.hl + 1))

/-- R175 to R178: the 16-bit loads. -/
def Obligations.WordLoads : Prop :=
  ∀ (s : State) (p : Pair) (n : Word) (e : Byte),
    Runs (.ldRrN16 p n) (bits224 0 p.bits 0b0001 :: immediate16 n) s 12 (s.setPair p n) ∧
    Runs (.ldN16Sp n) (0x08 :: immediate16 n) s 20
      (cpuWrite (n + 1) (s.cpu.sp.extractLsb' 8 8) (cpuWrite n (s.cpu.sp.extractLsb' 0 8) s)) ∧
    Runs .ldSpHl [0xF9] s 8 (s.setSp s.hl) ∧
    ∃ v g, IsSpSum s.cpu.sp e v g ∧ Runs (.ldHlSpE8 e) [0xF8, e] s 12 ((s.setHl v).withF g)

/-- R179 to R181: `PUSH rs`, `POP rs`, `POP AF`. The low nibble of the pushed flag byte is 0 and that of the popped one is
dropped. -/
def Obligations.PushAndPop : Prop :=
  ∀ (s : State) (q : StackPair),
    Runs (.pushRs q) [bits224 3 q.bits 0b0101] s 16 (s.pushed (s.stackPair q)) ∧
    (q ≠ .af → Runs (.popRs q) [bits224 3 q.bits 0b0001] s 12 (s.popped.2.setStackPair q s.popped.1)) ∧
    (∃ g : Flags, g.toByte = (s.popped.1.extractLsb' 0 8) &&& 0xF0 ∧
      Runs .popAf [0xF1] s 12 (s.popped.2.withAF (s.popped.1.extractLsb' 8 8) g)) ∧
    s.stackPair .af = s.cpu.a ++ s.cpu.f.toByte ∧ s.cpu.f.toByte &&& 0x0F = 0

/-! ## 8-bit arithmetic and logic -/

/-- R193 to R198: `ADD` and `ADC` in their three forms, as numbers (R190). -/
def Obligations.AddAndAdc : Prop :=
  ∀ s : State,
    AluForms .addAR .addAHl .addAN8 0 (fun a _ x v g => IsAdd8 a x 0 v g) s ∧
    AluForms .adcAR .adcAHl .adcAN8 1 (fun a f x v g => IsAdd8 a x (if f.c then 1 else 0) v g) s

/-- R199 to R204: `SUB` and `SBC` in their three forms, as numbers (R191). -/
def Obligations.SubAndSbc : Prop :=
  ∀ s : State,
    AluForms .subAR .subAHl .subAN8 2 (fun a _ x v g => IsSub8 a x 0 v g) s ∧
    AluForms .sbcAR .sbcAHl .sbcAN8 3 (fun a f x v g => IsSub8 a x (if f.c then 1 else 0) v g) s

/-- R205 to R213: `AND`, `XOR` and `OR` in their three forms, bit by bit (R192). -/
def Obligations.LogicOperations : Prop :=
  ∀ s : State,
    AluForms .andAR .andAHl .andAN8 4 (fun a _ x v g =>
      (∀ k < 8, v.getLsbD k = (a.getLsbD k && x.getLsbD k)) ∧ g = ⟨decide (v = 0), false, true, false⟩) s ∧
    AluForms .xorAR .xorAHl .xorAN8 5 (fun a _ x v g =>
      (∀ k < 8, v.getLsbD k = (a.getLsbD k != x.getLsbD k)) ∧ g = ⟨decide (v = 0), false, false, false⟩) s ∧
    AluForms .orAR .orAHl .orAN8 6 (fun a _ x v g =>
      (∀ k < 8, v.getLsbD k = (a.getLsbD k || x.getLsbD k)) ∧ g = ⟨decide (v = 0), false, false, false⟩) s

/-- R214 to R216: `CP` writes the flags of the subtraction and leaves `A`; `Z` holds iff the operands are equal and `C` iff `A`
is less. -/
def Obligations.Compare : Prop :=
  ∀ (s : State) (r : Reg8) (n : Byte),
    (∃ v g, IsSub8 s.cpu.a (s.reg r) 0 v g ∧ Runs (.cpAR r) [bits233 2 7 r.bits] s 4 (s.withF g) ∧
      (g.z = true ↔ s.cpu.a = s.reg r) ∧ (g.c = true ↔ s.cpu.a.toNat < (s.reg r).toNat)) ∧
    (∃ v g, IsSub8 s.cpu.a (cpuPeek s s.hl) 0 v g ∧ Runs .cpAHl [0xBE] s 8 ((cpuObserve s s.hl).withF g)) ∧
    (∃ v g, IsSub8 s.cpu.a n 0 v g ∧ Runs (.cpAN8 n) [0xFE, n] s 8 (s.withF g))

/-- R217 to R220: `INC` and `DEC` of a register and of the byte at `HL`; `C` keeps its value. -/
def Obligations.IncrementAndDecrement : Prop :=
  ∀ (s : State) (r : Reg8),
    let isInc := fun (x v : Byte) (g : Flags) =>
      v.toNat = (x.toNat + 1) % 256 ∧ (g.z = true ↔ (x.toNat + 1) % 256 = 0) ∧ g.n = false ∧
      (g.h = true ↔ x.toNat % 16 = 0xF) ∧ g.c = s.cpu.f.c
    let isDec := fun (x v : Byte) (g : Flags) =>
      v.toNat = (x.toNat + 255) % 256 ∧ (g.z = true ↔ x.toNat = 1) ∧ g.n = true ∧
      (g.h = true ↔ x.toNat % 16 = 0) ∧ g.c = s.cpu.f.c
    (∃ v g, isInc (s.reg r) v g ∧ Runs (.incR r) [bits233 0 r.bits 4] s 4 ((s.setReg r v).withF g)) ∧
    (∃ v g, isInc (cpuPeek s s.hl) v g ∧
      Runs .incHl [0x34] s 12 ((cpuWrite s.hl v (cpuObserve s s.hl)).withF g)) ∧
    (∃ v g, isDec (s.reg r) v g ∧ Runs (.decR r) [bits233 0 r.bits 5] s 4 ((s.setReg r v).withF g)) ∧
    (∃ v g, isDec (cpuPeek s s.hl) v g ∧
      Runs .decHl [0x35] s 12 ((cpuWrite s.hl v (cpuObserve s s.hl)).withF g))

/-- R221 to R224: `DAA` by its algorithm on numbers, `CPL`, `SCF`, `CCF`. -/
def Obligations.Adjustments : Prop :=
  ∀ s : State,
    let a := s.cpu.a.toNat
    let f := s.cpu.f
    let high := f.c = true ∨ a > 0x99
    (∃ (v : Byte) (c : Bool),
      (f.n = false → v.toNat = (a + (if high then 0x60 else 0) + (if f.h = true ∨ a % 16 > 9 then 6 else 0)) % 256 ∧
        (c = true ↔ high)) ∧
      (f.n = true → (v.toNat : Int) = ((a : Int) - (if f.c then 0x60 else 0) - (if f.h then 6 else 0)) % 256 ∧
        c = f.c) ∧
      Runs .daa [0x27] s 4 (s.withAF v ⟨decide (v.toNat = 0), f.n, false, c⟩)) ∧
    Runs .cpl [0x2F] s 4 (s.withAF (s.cpu.a ^^^ 0xFF) ⟨f.z, true, true, f.c⟩) ∧
    Runs .scf [0x37] s 4 (s.withF ⟨f.z, false, false, true⟩) ∧
    Runs .ccf [0x3F] s 4 (s.withF ⟨f.z, false, false, !f.c⟩)

/-- R230 to R233: 16-bit arithmetic. -/
def Obligations.WordArithmetic : Prop :=
  ∀ (s : State) (p : Pair) (e : Byte),
    (∃ (v : Word) (g : Flags),
      v.toNat = (s.hl.toNat + (s.pair p).toNat) % 65536 ∧ g.z = s.cpu.f.z ∧ g.n = false ∧
      (g.h = true ↔ s.hl.toNat % 4096 + (s.pair p).toNat % 4096 > 0xFFF) ∧
      (g.c = true ↔ s.hl.toNat + (s.pair p).toNat > 0xFFFF) ∧
      Runs (.addHlRr p) [bits224 0 p.bits 0b1001] s 8 ((s.setHl v).withF g)) ∧
    Runs (.incRr p) [bits224 0 p.bits 0b0011] s 8 (s.setPair p (BitVec.ofNat 16 ((s.pair p).toNat + 1))) ∧
    Runs (.decRr p) [bits224 0 p.bits 0b1011] s 8 (s.setPair p (BitVec.ofNat 16 ((s.pair p).toNat + 65535))) ∧
    (∃ v g, IsSpSum s.cpu.sp e v g ∧ Runs (.addSpE8 e) [0xE8, e] s 16 ((s.setSp v).withF g))

/-! ## Rotates, shifts and bits -/

/-- R244, R246, R248, R250, R252, R254, R256, R258: the shifts and rotates of a register; R240 to R243: the accumulator rotates,
which always clear `Z`. -/
def Obligations.RegisterShifts : Prop :=
  (∀ (o : ShiftOp) (s : State) (r : Reg8),
    ∃ v g, IsShift o (s.reg r) s.cpu.f.c v g ∧
      Runs (o.onReg r) [0xCB, bits233 0 o.bits r.bits] s 8 ((s.setReg r v).withF g)) ∧
  (∀ s : State,
    let rot := fun (o : ShiftOp) (v : Byte) =>
      v.toNat = o.result s.cpu.a.toNat (if s.cpu.f.c then 1 else 0)
    let g := fun (o : ShiftOp) => (⟨false, false, false, o.carry s.cpu.a.toNat⟩ : Flags)
    (∃ v, rot .rlc v ∧ Runs .rlca [0x07] s 4 (s.withAF v (g .rlc))) ∧
    (∃ v, rot .rrc v ∧ Runs .rrca [0x0F] s 4 (s.withAF v (g .rrc))) ∧
    (∃ v, rot .rl v ∧ Runs .rla [0x17] s 4 (s.withAF v (g .rl))) ∧
    (∃ v, rot .rr v ∧ Runs .rra [0x1F] s 4 (s.withAF v (g .rr))))

/-- R245, R247, R249, R251, R253, R255, R257, R259: the shifts and rotates of the byte at `HL`, a read and then a write. -/
def Obligations.MemoryShifts : Prop :=
  ∀ (o : ShiftOp) (s : State),
    ∃ v g, IsShift o (cpuPeek s s.hl) s.cpu.f.c v g ∧
      Runs o.onHl [0xCB, bits233 0 o.bits 6] s 16 ((cpuWrite s.hl v (cpuObserve s s.hl)).withF g)

/-- R260 to R265: `BIT`, `RES` and `SET`, bit by bit. -/
def Obligations.BitOperations : Prop :=
  ∀ (s : State) (b : BitVec 3) (r : Reg8),
    let m := cpuPeek s s.hl
    let s1 := cpuObserve s s.hl
    let tested := fun (x : Byte) => (⟨!x.getLsbD b.toNat, false, true, s.cpu.f.c⟩ : Flags)
    let with' := fun (x v : Byte) (y : Bool) => ∀ k < 8, v.getLsbD k = if k = b.toNat then y else x.getLsbD k
    Runs (.bitBR b r) [0xCB, bits233 1 b r.bits] s 8 (s.withF (tested (s.reg r))) ∧
    Runs (.bitBHl b) [0xCB, bits233 1 b 6] s 12 (s1.withF (tested m)) ∧
    (∃ v, with' (s.reg r) v false ∧ Runs (.resBR b r) [0xCB, bits233 2 b r.bits] s 8 (s.setReg r v)) ∧
    (∃ v, with' m v false ∧ Runs (.resBHl b) [0xCB, bits233 2 b 6] s 16 (cpuWrite s.hl v s1)) ∧
    (∃ v, with' (s.reg r) v true ∧ Runs (.setBR b r) [0xCB, bits233 3 b r.bits] s 8 (s.setReg r v)) ∧
    (∃ v, with' m v true ∧ Runs (.setBHl b) [0xCB, bits233 3 b 6] s 16 (cpuWrite s.hl v s1))

/-! ## Control transfer -/

/-- R270 to R274: jumps, taken and not taken; R11: the four conditions. `pc` is past the instruction's bytes. -/
def Obligations.Jumps : Prop :=
  (∀ f : Flags,
    (condHolds .nz f = true ↔ f.z = false) ∧ (condHolds .z f = true ↔ f.z = true) ∧
    (condHolds .nc f = true ↔ f.c = false) ∧ (condHolds .c f = true ↔ f.c = true)) ∧
  ∀ (s : State) (cc : Cond) (n : Word) (e : Byte),
    let rel : Word := BitVec.ofInt 16 ((s.cpu.pc.toNat : Int) + e.toInt)
    Runs (.jpN16 n) (0xC3 :: immediate16 n) s 16 (s.setPc n) ∧
    (condHolds cc s.cpu.f = true → Runs (.jpCcN16 cc n) (bits323 6 cc.bits 2 :: immediate16 n) s 16 (s.setPc n)) ∧
    (condHolds cc s.cpu.f = false → Runs (.jpCcN16 cc n) (bits323 6 cc.bits 2 :: immediate16 n) s 12 s) ∧
    Runs .jpHl [0xE9] s 4 (s.setPc s.hl) ∧
    Runs (.jrE8 e) [0x18, e] s 12 (s.setPc rel) ∧
    (condHolds cc s.cpu.f = true → Runs (.jrCcE8 cc e) [bits323 1 cc.bits 0, e] s 12 (s.setPc rel)) ∧
    (condHolds cc s.cpu.f = false → Runs (.jrCcE8 cc e) [bits323 1 cc.bits 0, e] s 8 s)

/-- R275 to R280: calls, returns and restarts. The pushed address is `pc`, past the instruction's bytes. -/
def Obligations.CallsAndReturns : Prop :=
  ∀ (s : State) (cc : Cond) (n : Word) (t : BitVec 3),
    let called := fun (a : Word) => (s.pushed s.cpu.pc).setPc a
    let returned := s.popped.2.setPc s.popped.1
    Runs (.callN16 n) (0xCD :: immediate16 n) s 24 (called n) ∧
    (condHolds cc s.cpu.f = true → Runs (.callCcN16 cc n) (bits323 6 cc.bits 4 :: immediate16 n) s 24 (called n)) ∧
    (condHolds cc s.cpu.f = false → Runs (.callCcN16 cc n) (bits323 6 cc.bits 4 :: immediate16 n) s 12 s) ∧
    Runs .ret [0xC9] s 16 returned ∧
    (condHolds cc s.cpu.f = true → Runs (.retCc cc) [bits323 6 cc.bits 0] s 20 returned) ∧
    (condHolds cc s.cpu.f = false → Runs (.retCc cc) [bits323 6 cc.bits 0] s 8 s) ∧
    Runs .reti [0xD9] s 16 (returned.setCpu { returned.cpu with ime := true }) ∧
    Runs (.rstT t) [bits233 3 t 7] s 16 (called (BitVec.ofNat 16 (t.toNat * 8)))

/-! ## System instructions -/

/-- R285, R288, R289, and what `HALT` and `STOP` write (R286, R287); R291: each of the eleven unassigned opcodes does nothing,
for 4 ticks, and is one byte long. -/
def Obligations.SystemInstructions : Prop :=
  ∀ s : State,
    Runs .nop [0x00] s 4 s ∧
    Runs .halt [0x76] s 4 (s.setCpu { s.cpu with halted := true }) ∧
    Runs .stop [0x10, 0x00] s 4 (s.setCpu { s.cpu with stopped := true }) ∧
    (∀ pad : Byte, decode [0x10, pad] = .ok (.stop, [])) ∧
    Runs .di [0xF3] s 4 (s.setCpu { s.cpu with ime := false, eiDelay := 0 }) ∧
    (s.cpu.eiDelay = 0 → Runs .ei [0xFB] s 4 (s.setCpu { s.cpu with eiDelay := 2 })) ∧
    (s.cpu.eiDelay ≠ 0 → Runs .ei [0xFB] s 4 s) ∧
    Runs .illegalD3 [0xD3] s 4 s ∧ Runs .illegalDB [0xDB] s 4 s ∧ Runs .illegalDD [0xDD] s 4 s ∧
    Runs .illegalE3 [0xE3] s 4 s ∧ Runs .illegalE4 [0xE4] s 4 s ∧ Runs .illegalEB [0xEB] s 4 s ∧
    Runs .illegalEC [0xEC] s 4 s ∧ Runs .illegalED [0xED] s 4 s ∧ Runs .illegalF4 [0xF4] s 4 s ∧
    Runs .illegalFC [0xFC] s 4 s ∧ Runs .illegalFD [0xFD] s 4 s

/-- R290: 0xCB and the byte after it are one instruction, the one the secondary table gives, with its effect and its ticks. -/
def Obligations.ExtendedOpcode : Prop :=
  ∀ (op2 : Byte) (rest : List Byte) (s : State),
    decode (0xCB :: op2 :: rest) = .ok (decodeSecondary op2, rest) ∧
    ∃ t, exec (.cbPrefix op2) s = .next t ∧ exec (decodeSecondary op2) s = .next t

/-- R306, R307: taking an interrupt. `IME` is cleared, then the interrupt's own request, then `pc` is pushed, then `pc` is the
handler's address; nothing else of the engine changes but that an `ei_delay` still running ends, which is the model's choice
(log 29). No bytes decode to an entry (R128). -/
def Obligations.InterruptDispatch : Prop :=
  ∀ s : State,
    let entry := fun (i : Instr) (k : Nat) (target : Word) =>
      (∃ t, exec i s = .next t ∧
        t = (((({ s with iflag := s.iflag &&& ~~~((1 : BitVec 5) <<< k) }).setCpu
          { s.cpu with ime := false, eiDelay := 0 }).pushed s.cpu.pc).setPc target).lasting 20) ∧
      ∀ bs rest, decode bs ≠ .ok (i, rest)
    entry .intVblank 0 0x0040 ∧ entry .intStat 1 0x0048 ∧ entry .intTimer 2 0x0050 ∧
    entry .intSerial 3 0x0058 ∧ entry .intJoypad 4 0x0060

/-! ## Frames -/

/-- Registers and pairs (R8, R20, R21): a register reads back what was written and no other register changes; a pair is its two
halves, high byte first; a write of a pair is a write of its halves and a write of a half a write of part of its pair. -/
def Obligations.RegistersAndPairs : Prop :=
  ∀ (s : State) (r r' : Reg8) (v : Byte) (p : Pair) (w : Word),
    (s.setReg r v).reg r' = (if r' = r then v else s.reg r') ∧
    s.pair .bc = s.reg .b ++ s.reg .c ∧ s.pair .de = s.reg .d ++ s.reg .e ∧ s.pair .hl = s.reg .h ++ s.reg .l ∧
    (s.setPair p w).pair p = w ∧
    s.setPair .bc w = (s.setReg .b (w.extractLsb' 8 8)).setReg .c (w.extractLsb' 0 8) ∧
    s.setPair .de w = (s.setReg .d (w.extractLsb' 8 8)).setReg .e (w.extractLsb' 0 8) ∧
    s.setPair .hl w = (s.setReg .h (w.extractLsb' 8 8)).setReg .l (w.extractLsb' 0 8) ∧
    (s.setReg .b v).pair .bc = v ++ s.reg .c ∧ (s.setReg .c v).pair .bc = s.reg .b ++ v ∧
    (s.setReg .d v).pair .de = v ++ s.reg .e ∧ (s.setReg .e v).pair .de = s.reg .d ++ v ∧
    (s.setReg .h v).pair .hl = v ++ s.reg .l ∧ (s.setReg .l v).pair .hl = s.reg .h ++ v ∧
    (s.setReg r v).cpu.f = s.cpu.f ∧ (s.setReg r v).cpu.sp = s.cpu.sp ∧ (s.setReg r v).cpu.pc = s.cpu.pc

/-- The register frame of every instruction: only its destinations among the general registers (`HL` too where its addressing
mode updates it), the flags only if it is a flag writer (R25), `sp` only as R28 says, `IME` as R29, `ei_delay` only by `EI`,
`DI` and, by the model's choice (log 29), an interrupt entry, the halt and stop states only by `HALT` and `STOP`; never the
launch parameters or the session. -/
def Obligations.RegisterFrame : Prop :=
  ∀ (i : Instr) (s t : State), exec i s = .next t →
    (∀ r, r ∉ destRegs (selected i) → t.reg r = s.reg r) ∧
    (writesFlags (selected i) = false → t.cpu.f = s.cpu.f) ∧
    (writesSp (selected i) = false → t.cpu.sp = s.cpu.sp) ∧
    (writesPc (selected i) = false → t.cpu.pc = s.cpu.pc) ∧
    (writesIme (selected i) = false → t.cpu.ime = s.cpu.ime) ∧
    (i ≠ .ei → i ≠ .di → isInterruptEntry i = false → t.cpu.eiDelay = s.cpu.eiDelay) ∧
    (i ≠ .halt → t.cpu.halted = s.cpu.halted) ∧ (i ≠ .stop → t.cpu.stopped = s.cpu.stopped) ∧
    t.cpu.cur = s.cpu.cur ∧ t.cpu.ustep = s.cpu.ustep ∧ t.cpu.nextInt = s.cpu.nextInt ∧
    t.cfg = s.cfg ∧ t.session = s.session

/-- The memory frame of every instruction. An instruction that stores nothing leaves the byte arrays and every device register
as they were (but for the request bit an interrupt entry clears). One whose stores all reach RAM leaves every device alone, and
every address reads as before except those that are the stored bytes. `storedTo` gives the addresses, computed from the operands
as the rules say. A clock register is the one place where a read leaves a trace (R87). -/
def Obligations.MemoryFrame : Prop :=
  ∀ (i : Instr) (s t : State), exec i s = .next t →
    (∀ a ∈ storedTo i s, cpuRestricted s a = false ∧ ∃ k, place s a = .ram k) →
    (storedTo i s = [] → t.mem = s.mem) ∧
    (isInterruptEntry i = false → t.iflag = s.iflag) ∧
    t.ie = s.ie ∧ t.bootMapped = s.bootMapped ∧ t.mbc = s.mbc ∧ t.timer = s.timer ∧ t.dma = s.dma ∧
    t.hdma = s.hdma ∧ t.joy = s.joy ∧ t.video = s.video ∧ t.audio = s.audio ∧
    ∀ a', PlainRead s a' → (isInterruptEntry i = true → place s a' ≠ .io .intf) →
      (∀ a ∈ storedTo i s, place s a' ≠ place s a) → peek t a' = peek s a'

/-! ## The engine, tick by tick -/

/-- A step runs the decoded instruction. When the clock runs and the engine is to decode, and the bytes it reads at `pc`, each
by a CPU read, are the instruction `i`, then the step is the effect of `i` with `pc` past its bytes, the first of its ticks
spent, followed by the audio and video steps (R316, R358). -/
def Obligations.StepRunsDecodedInstruction : Prop :=
  ∀ (s : State) (i : Instr) (rest : List Byte), clockStopped s = false →
    let u := engineView s
    let pc := u.cpu.pc
    let u1 := cpuObserve u pc
    let u2 := cpuObserve u1 (pc + 1)
    let u3 := cpuObserve u2 (pc + 2)
    AtDecode u → u.cpu.nextInt = none →
    decode [cpuPeek u pc, cpuPeek u1 (pc + 1), cpuPeek u2 (pc + 2)] = .ok (i, rest) →
    let v := if rest.length = 2 then u1 else if rest.length = 1 then u2 else u3
    ∃ t, exec i (v.setCpu { u.cpu with
        pc := pc + BitVec.ofNat 16 (3 - rest.length), cur := some i, ustep := 0 }) = .next t ∧
      step s = .next (afterEngine (t.setCpu { t.cpu with ustep := 1 }))

/-- The interrupt the controller answered at the last completion is loaded instead of the byte at `pc`: no byte is fetched and
`pc` is not advanced (R305). That the whole effect falls on the first tick is the granularity of log 6. -/
def Obligations.InterruptReplacesDecode : Prop :=
  ∀ (s : State) (q : Irq), clockStopped s = false →
    let u := engineView s
    AtDecode u → u.cpu.nextInt = some q →
    ∃ i t, i = (match q with
        | .vblank => Instr.intVblank
        | .stat => Instr.intStat
        | .timer => Instr.intTimer
        | .serial => Instr.intSerial
        | .joypad => Instr.intJoypad) ∧
      exec i (u.setCpu { u.cpu with nextInt := none, cur := some i, ustep := 0 }) = .next t ∧
      step s = .next (afterEngine (t.setCpu { t.cpu with ustep := 1 }))

/-- An instruction in progress does nothing until its ticks are over, and then the completion step is made (R311): the `EI`
delay counts down and sets `IME` on reaching 0; then the interrupt controller is consulted. That the ticks before the last do
nothing is the granularity of log 6, and that a halt state the pending request ends is left at that boundary is deduced from
R286 (log 7). -/
def Obligations.CompletionStep : Prop :=
  ∀ (s : State) (i : Instr), clockStopped s = false →
    let u := engineView s
    let pend := u.iflag &&& u.ie.extractLsb' 0 5
    let ime := u.cpu.ime || decide (u.cpu.eiDelay = 1)
    NotStalled u → u.cpu.cur = some i → 0 < u.cpu.ustep →
    (u.cpu.ustep + 1 < u.cpu.dur →
      step s = .next (afterEngine (u.setCpu { u.cpu with ustep := u.cpu.ustep + 1 }))) ∧
    (u.cpu.dur ≤ u.cpu.ustep + 1 →
      step s = .next (afterEngine (u.setCpu { u.cpu with
        cur := none
        ustep := u.cpu.ustep + 1
        eiDelay := u.cpu.eiDelay - 1
        ime := ime
        halted := u.cpu.halted && decide (pend = 0)
        nextInt := if ime = true ∧ pend ≠ 0 then lowestIrq pend else none })))

/-- The pending set and the priority (R303, R304): the least source requested and enabled, and none without `IME`. Bits [7:5] of
`IE` take no part. -/
def Obligations.InterruptPriority : Prop :=
  (∀ (p : BitVec 5), (lowestIrq p = none ↔ p = 0) ∧
    ∀ q, lowestIrq p = some q ↔ (p.getLsbD q.index = true ∧ ∀ j < q.index, p.getLsbD j = false)) ∧
  (∀ s : State, (consult s = none ↔ (s.cpu.ime = false ∨ s.iflag &&& s.ie.extractLsb' 0 5 = 0)) ∧
    ∀ q, consult s = some q →
      s.iflag.getLsbD q.index = true ∧ s.ie.getLsbD q.index = true ∧
      ∀ j < q.index, ¬(s.iflag.getLsbD j = true ∧ s.ie.getLsbD j = true)) ∧
  (Irq.index .vblank = 0 ∧ Irq.index .stat = 1 ∧ Irq.index .timer = 2 ∧ Irq.index .serial = 3 ∧ Irq.index .joypad = 4)

/-- R312: a tick of the halt state. A request that is enabled ends it, whatever `IME` is, and then the controller is consulted;
otherwise nothing of the engine changes while the other units step. -/
def Obligations.HaltWakeUp : Prop :=
  ∀ s : State, clockStopped s = false →
    let u := engineView s
    let pend := u.iflag &&& u.ie.extractLsb' 0 5
    NotStalled u → u.cpu.cur = none → u.cpu.halted = true →
    (pend = 0 → step s = .next (afterEngine u)) ∧
    (pend ≠ 0 → step s = .next (afterEngine (u.setCpu { u.cpu with
      halted := false, nextInt := if u.cpu.ime = true then lowestIrq pend else none })))

/-- R313: while the clock is stopped a step begins a frame call. Without a button pressed in that call's mask nothing but the
mask and the number of the call changes: no unit steps, no tick is counted, and the buffers returned are the previous ones.
With one pressed the stop state ends and the step is the first tick of the call, which takes that mask. How steps and frame
calls correspond is log 9, the mask log 10. -/
def Obligations.StopState : Prop :=
  ∀ s : State, clockStopped s = true →
    let m := Config.controllerMask s.session.frameNo
    let pressed := ∃ i : Fin 8, m.getLsbD (Config.joypadLayout i) = true
    let r := s.setCpu { s.cpu with stopped := false }
    (¬pressed → ∃ t, step s = .next t ∧ t = { s with
        joy := { s.joy with mask := m }
        session := { s.session with frameNo := s.session.frameNo + 1 } } ∧
      frameResult t = frameResult s) ∧
    (pressed → clockStopped r = false ∧ step s = step r ∧
      (s.session.frameTick = 0 → (beginFrame r).joy.mask = m ∧ (beginFrame r).session.frameNo = s.session.frameNo + 1))

/-- R317: a pending stall is counted down by one and the engine does nothing else on that tick; an OAM DMA suspends it only
under the parameter that says so. -/
def Obligations.StallSuspendsEngine : Prop :=
  ∀ s : State, clockStopped s = false →
    let u := engineView s
    (0 < u.hdma.stall → step s = .next (afterEngine { u with hdma := { u.hdma with stall := u.hdma.stall - 1 } })) ∧
    (u.hdma.stall = 0 → u.cfg.oamDmaStallsCpu = true → 0 < u.dma.left → step s = .next (afterEngine u))

/-- Every step of every state produces a next state: there is no fault and no refusal (R300, R387). -/
def Obligations.StepAlwaysCompletes : Prop := ∀ s : State, ∃ t, step s = .next t

/-- R22: no unit but the engine writes a register: not the bus step, the audio step, the video step, a bus access, the frame
boundary, nor the host. And none reads one: no register is memory-mapped, and what a unit does is the same whatever the
registers hold. -/
def Obligations.OnlyTheEngineWritesRegisters : Prop :=
  (∀ (s t : State) (a : Word) (v : Byte) (bytes : List Byte) (d o : Int),
    (busStep s).cpu = s.cpu ∧ (audioStep s).cpu = s.cpu ∧ (videoStep s).cpu = s.cpu ∧
    (cpuObserve s a).cpu = s.cpu ∧ (cpuWrite a v s).cpu = s.cpu ∧ (busWrite a v s).cpu = s.cpu ∧
    (beginFrame s).cpu = s.cpu ∧ (endTick s).cpu = s.cpu ∧ (endIfStopped s).cpu = s.cpu ∧
    (replaceCartRam bytes s = some t → t.cpu = s.cpu) ∧ (replaceRtc d o s = some t → t.cpu = s.cpu)) ∧
  ∀ (s : State) (c : Cpu) (a : Word) (v : Byte),
    busStep (s.setCpu c) = (busStep s).setCpu c ∧ audioStep (s.setCpu c) = (audioStep s).setCpu c ∧
    videoStep (s.setCpu c) = (videoStep s).setCpu c ∧ peek (s.setCpu c) a = peek s a ∧
    observe (s.setCpu c) a = (observe s a).setCpu c ∧ busWrite a v (s.setCpu c) = (busWrite a v s).setCpu c ∧
    beginFrame (s.setCpu c) = (beginFrame s).setCpu c ∧ endTick (s.setCpu c) = (endTick s).setCpu c ∧
    queryCartRam (s.setCpu c) = queryCartRam s ∧ queryRtc (s.setCpu c) = queryRtc s ∧
    frameResult (s.setCpu c) = frameResult s

/-! ## Memory -/

/-- R71: an echo address is the work-RAM address 0x2000 below it: the same byte, the same effect of a read and of a write, for
the CPU as for the bus; a byte written through one of the two reads back through the other. R73, R80: the gap after OAM, the
offsets of the register block the map does not list, and outside colour mode the colour-only registers read 0xFF and ignore
writes. -/
def Obligations.EchoAndUnmapped : Prop :=
  (∀ (s : State) (a : Word) (v : Byte), 0xE000 ≤ a.toNat → a.toNat ≤ 0xFDFF →
    let w := a - 0x2000
    w.toNat = a.toNat - 0x2000 ∧
    peek s a = peek s w ∧ observe s a = observe s w ∧ busWrite a v s = busWrite w v s ∧
    cpuPeek s a = cpuPeek s w ∧ cpuObserve s a = cpuObserve s w ∧ cpuWrite a v s = cpuWrite w v s ∧
    peek (busWrite w v s) a = v ∧ peek (busWrite a v s) w = v ∧
    (cpuRestricted s a = false → cpuPeek (cpuWrite w v s) a = v ∧ cpuPeek (cpuWrite a v s) w = v)) ∧
  ∀ (s : State) (a : Word),
    let n := a.toNat
    (0xFEA0 ≤ n → n ≤ 0xFEFF → NothingAt s a) ∧
    (0xFF00 ≤ n → n ≤ 0xFF7F → n - 0xFF00 ∉ registerOffsets → NothingAt s a) ∧
    (0xFF00 ≤ n → n ≤ 0xFF7F → n - 0xFF00 ∈ colourOffsets → s.cfg.cgb = false → NothingAt s a)

/-- R68, R70, R72, R75, R76: which byte of which array an address of the RAM windows is, the bank selectors, and `IE`. Reading
has no effect, writing changes that byte and no other, and bytes of different addresses, arrays or banks are different bytes, for
every array of the machine. -/
def Obligations.PlainStorage : Prop :=
  (∀ (s : State) (a : Word),
    let n := a.toNat
    (0x8000 ≤ n → n ≤ 0x9FFF → StoredAt s a (vramKey (vramBank s) n)) ∧
    (0xC000 ≤ n → n ≤ 0xCFFF → StoredAt s a (wramKey 0 n)) ∧
    (0xD000 ≤ n → n ≤ 0xDFFF → StoredAt s a (wramKey (wramBank s) n)) ∧
    (0xFE00 ≤ n → n ≤ 0xFE9F → StoredAt s a (oamKey (n - 0xFE00))) ∧
    (0xFF80 ≤ n → n ≤ 0xFFFE → StoredAt s a n) ∧
    (n = 0xFFFF → peek s a = s.ie ∧ observe s a = s ∧ ∀ v, busWrite a v s = { s with ie := v })) ∧
  (∀ s : State,
    vramBank s = (if s.cfg.cgb = true ∧ (s.io .vbk).getLsbD 0 = true then 1 else 0) ∧
    (s.cfg.cgb = false → wramBank s = 1) ∧
    (s.cfg.cgb = true → (s.io .svbk).toNat % 8 < s.cfg.wramBanks →
      wramBank s = if (s.io .svbk).toNat % 8 = 0 then 1 else (s.io .svbk).toNat % 8)) ∧
  (∀ (s : State) (k k' : Nat) (v : Byte), (s.setCell k v).cell k' = if k' = k then v else s.cell k') ∧
  (∀ x y : StoredByte, x.Valid → y.Valid → x.key = y.key → x = y)

/-- R82: on ticks 1 to 159 of an OAM DMA transfer a CPU read of anything but 0xFF46 and high RAM gives 0xFF and a CPU write of
it is ignored, with no side effect, instruction fetch included; otherwise a CPU access is the bus's own. The interrupt
controller's reading of `IF` and `IE` is not restricted. -/
def Obligations.OamDmaWindow : Prop :=
  ∀ (s : State) (a : Word) (v : Byte),
    let hidden := 1 ≤ s.dma.left ∧ s.dma.left ≤ 159 ∧ a ≠ 0xFF46 ∧ ¬(0xFF80 ≤ a.toNat ∧ a.toNat ≤ 0xFFFE)
    (hidden → cpuPeek s a = 0xFF ∧ cpuObserve s a = s ∧ cpuWrite a v s = s ∧
      (s.cpu.pc = a → fetch8 s = (0xFF, s.setPc (a + 1)))) ∧
    (¬hidden → cpuPeek s a = peek s a ∧ cpuObserve s a = observe s a ∧ cpuWrite a v s = busWrite a v s ∧
      (s.cpu.pc = a → fetch8 s = (peek s a, (observe s a).setPc (a + 1)))) ∧
    ∀ d : OamDma, consult { s with dma := d } = consult s

/-- R81, and log 25 for a write mask other than the default, under which the byte is stored all the same: a write of `v` to
0xFF46 arms 160 ticks from the source `v ++ 0x00` and reads back; each bus step then copies one byte, read through the
unrestricted decode, into OAM and counts down; and after exactly 160 bus steps all 160 bytes of OAM are those of a source in
video RAM. -/
def Obligations.OamDmaTransfer : Prop :=
  (∀ (s : State) (v : Byte),
    (busWrite 0xFF46 v s).dma = { src := v ++ (0x00 : Byte), left := 160 } ∧ peek (busWrite 0xFF46 v s) 0xFF46 = v ∧
    (cpuRestricted s 0xFF46 = false ∧ cpuWrite 0xFF46 v s = busWrite 0xFF46 v s)) ∧
  (∀ s : State, 0 < s.dma.left → s.dma.left ≤ 160 →
    let k := 160 - s.dma.left
    let a := s.dma.src + BitVec.ofNat 16 k
    oamDmaStep s = { (observe s a).setCell (oamKey k) (peek s a) with
      dma := { src := s.dma.src, left := s.dma.left - 1 } }) ∧
  (∀ s : State, s.dma.left = 0 → oamDmaStep s = s) ∧
  (∀ (s : State) (v : Byte), 0x80 ≤ v.toNat → v.toNat ≤ 0x9F →
    let t := Nat.iterate busStep 160 (busWrite 0xFF46 v s)
    t.dma.left = 0 ∧ (Nat.iterate busStep 159 (busWrite 0xFF46 v s)).dma.left = 1 ∧
    ∀ k < 160, t.cell (oamKey k) = s.cell (vramKey (vramBank s) (v.toNat * 256 + k)))

/-- R65 to R67: what a read of the ROM windows gives, with the boot ROM over it while it is mapped and 0xFF beyond the image; a
write there changes no byte, only registers of the bank controller; the boot ROM is unmapped by a write of a non-zero value to
0xFF50 and never mapped again. -/
def Obligations.RomReads : Prop :=
  (∀ (s : State) (a : Word) (v : Byte), a.toNat ≤ 0x7FFF →
    let n := a.toNat
    let inBoot := s.bootMapped = true ∧
      ((s.cfg.boot = .bytes256 ∧ n ≤ 0xFF) ∨ (s.cfg.boot = .bytes2304 ∧ (n ≤ 0xFF ∨ (0x200 ≤ n ∧ n ≤ 0x8FF))))
    (inBoot → peek s a = s.cell (bootKey n)) ∧
    (¬inBoot → romOffset s n < s.cfg.romSize → peek s a = s.cell (romKey (romOffset s n))) ∧
    (¬inBoot → s.cfg.romSize ≤ romOffset s n → peek s a = 0xFF) ∧
    busWrite a v s = { s with mbc := (busWrite a v s).mbc }) ∧
  (∀ (s : State) (v : Byte), (busWrite 0xFF50 v s).bootMapped = (s.bootMapped && decide (v = 0))) ∧
  (∀ (s : State) (a : Word) (v : Byte), (busWrite a v s).bootMapped = true → s.bootMapped = true) ∧
  (∀ o o' : Nat, romKey o = romKey o' → o = o')

/-- R96 to R101: the control writes of each bank-controller variant and the offset in the image an address resolves to. A bank
number beyond the image's count is reduced modulo the count; MBC1 and MBC3 turn bank 0 into bank 1, MBC5 does not. The count is
that of the banks in the image, whatever its header declares; a partly filled bank counts (log 27). That MBC3's and MBC5's latch
is set by the low nibble 0xA, as MBC1's, is deduced (log 14), and so is that a write to 0x6000 and up changes nothing of MBC5,
which has no register there; that it changes nothing of MBC3, whose clock latch is there, is the model's choice (log 13). -/
def Obligations.BankSwitching : Prop :=
  (∀ (l : Launch) (s : State), construct l = .ok s →
    s.cfg.romSize = l.rom.length ∧ s.cfg.romBanks = (l.rom.length + 0x3FFF) / 0x4000) ∧
  ∀ (s : State) (a : Word) (v : Byte), a.toNat ≤ 0x7FFF →
    let n := a.toNat
    let t := busWrite a v s
    let only := fun (m : Mbc) => t = { s with mbc := m }
    let high := fun (bank : Nat) => romOffset s n = if n ≤ 0x3FFF then n else bank % s.cfg.romBanks * 0x4000 + (n - 0x4000)
    let enable := n ≤ 0x1FFF → only { s.mbc with ramEn := decide (v.toNat % 16 = 0xA) }
    (s.cfg.mbc = .noBanking → t = s ∧ romOffset s n = n) ∧
    (s.cfg.mbc = .mbc1 → enable ∧
      (0x2000 ≤ n → n ≤ 0x3FFF →
        only { s.mbc with romBank := if v.toNat % 32 = 0 then 1 else BitVec.ofNat 9 (v.toNat % 32) }) ∧
      (0x4000 ≤ n → n ≤ 0x5FFF → only { s.mbc with bankHi := BitVec.ofNat 2 v.toNat }) ∧
      (0x6000 ≤ n → only { s.mbc with mode := decide (v.toNat % 2 = 1) }) ∧
      high (if s.mbc.mode then s.mbc.romBank.toNat else s.mbc.bankHi.toNat * 32 + s.mbc.romBank.toNat)) ∧
    (∀ rtc, s.cfg.mbc = .mbc3 rtc → enable ∧
      (0x2000 ≤ n → n ≤ 0x3FFF →
        only { s.mbc with romBank := if v.toNat % 128 = 0 then 1 else BitVec.ofNat 9 (v.toNat % 128) }) ∧
      (0x4000 ≤ n → n ≤ 0x5FFF → only { s.mbc with ramSel := v }) ∧
      (0x6000 ≤ n → t = s) ∧
      high s.mbc.romBank.toNat) ∧
    (s.cfg.mbc = .mbc5 → enable ∧
      (0x2000 ≤ n → n ≤ 0x2FFF →
        only { s.mbc with romBank := BitVec.ofNat 9 (s.mbc.romBank.toNat / 256 * 256 + v.toNat) }) ∧
      (0x3000 ≤ n → n ≤ 0x3FFF →
        only { s.mbc with romBank := BitVec.ofNat 9 (v.toNat % 2 * 256 + s.mbc.romBank.toNat % 256) }) ∧
      (0x4000 ≤ n → n ≤ 0x5FFF → only { s.mbc with ramSel := BitVec.ofNat 8 (v.toNat % 16) }) ∧
      (0x6000 ≤ n → t = s) ∧
      high s.mbc.romBank.toNat)

/-- External RAM (R69, R102): denied while the enable latch is clear or the requested bank is not one of the declared banks;
otherwise a byte of that bank, or the selected clock register. That "exceeds" means the banks are numbered from 0 is deduced
(log 14), and that a select value of MBC3 to which R98 gives no meaning, or 8 to 12 without a clock, is a bank number is the
model's choice (log 13). -/
def Obligations.ExternalRam : Prop :=
  ∀ (s : State) (a : Word), 0xA000 ≤ a.toNat → a.toNat ≤ 0xBFFF →
    let bank := requestedRamBank s
    (s.mbc.ramEn = false → NothingAt s a) ∧
    (s.mbc.ramEn = true → ¬clockSelected s → s.cfg.ramBanks ≤ bank → NothingAt s a) ∧
    (s.mbc.ramEn = true → ¬clockSelected s → bank < s.cfg.ramBanks → StoredAt s a (cartRamKey bank a.toNat)) ∧
    (s.mbc.ramEn = true → clockSelected s → ∃ r, place s a = .clock r ∧
      s.mbc.ramSel.toNat = match r with
        | .seconds => 0x08
        | .minutes => 0x09
        | .hours => 0x0A
        | .dayLow => 0x0B
        | .dayHigh => 0x0C)

/-- The real-time clock (R103, R104), for every time the host gives. A read gives the field of the host's time plus the stored
offset; a write of a value the field can hold changes the offset so that the field reads that value at the same time and the
other fields read as before. The overflow flag is set once a day count above 511 is observed and kept until a write of day-high.
Only the clock's registers have an effect on read (R87). Which accesses observe, and bits 6 to 1 of day-high, are the model's
(log 12). -/
def Obligations.RealTimeClock : Prop :=
  (∀ (s : State) (a : Word), PlainRead s a → observe s a = s ∧ cpuObserve s a = s) ∧
  ∀ (s : State) (a : Word) (r : RtcReg), place s a = .clock r →
    let now := (Config.wallClock s.rtc.draws : Int)
    let t := now + s.rtc.offset
    let seen := s.rtc.overflow || decide (t / 86400 > 511)
    observe s a = { s with rtc := { s.rtc with overflow := seen, draws := s.rtc.draws + 1 } } ∧
    (r = .seconds → ((peek s a).toNat : Int) = t % 60) ∧
    (r = .minutes → ((peek s a).toNat : Int) = t / 60 % 60) ∧
    (r = .hours → ((peek s a).toNat : Int) = t / 3600 % 24) ∧
    (r = .dayLow → ((peek s a).toNat : Int) = t / 86400 % 256) ∧
    (r = .dayHigh → (peek s a).getLsbD 7 = seen ∧ ((peek s a).getLsbD 0 = true ↔ t / 86400 / 256 % 2 = 1)) ∧
    ∀ v : Byte,
      let s' := busWrite a v s
      let t' := now + s'.rtc.offset
      s' = { s with rtc := s'.rtc } ∧ s'.rtc.draws = s.rtc.draws + 1 ∧
      (r ≠ .dayHigh → s'.rtc.overflow = seen) ∧
      (r = .seconds → v.toNat < 60 → t' % 60 = v.toNat ∧ t' / 60 = t / 60) ∧
      (r = .minutes → v.toNat < 60 → t' / 60 % 60 = v.toNat ∧ t' % 60 = t % 60 ∧ t' / 3600 = t / 3600) ∧
      (r = .hours → v.toNat < 24 → t' / 3600 % 24 = v.toNat ∧ t' % 3600 = t % 3600 ∧ t' / 86400 = t / 86400) ∧
      (r = .dayLow → t' / 86400 % 256 = v.toNat ∧ t' % 86400 = t % 86400 ∧
        t' / 86400 / 256 = t / 86400 / 256) ∧
      (r = .dayHigh → s'.rtc.overflow = v.getLsbD 7 ∧ t' % 86400 = t % 86400 ∧
        t' / 86400 % 256 = t / 86400 % 256 ∧ t' / 86400 / 256 % 2 = v.toNat % 2)

/-! ## Registers of the block -/

/-- The register block. A register without a rule of its own, a bank selector and a palette index read `stored | IO_READ_OR`
and a write changes the bits the mask names (R74). `DIV` reads the high byte of `div16` and any write clears all of it (R77). A
write of `STAT` under the mask 0xFC the rule names keeps the two mode bits (R78). `IF` reads with its upper bits set and stores
five bits (R30). `LY` reads the line and ignores writes. `NR52` reads the master enable and the channels' bits, and a write
under the default mask changes the master enable alone. A write of a length-load register also loads the counter, and one of a
trigger register or of the boot ROM's register also stores. In colour mode `HDMA1` to `HDMA4` are the halves of the two
addresses and the two data ports reach palette RAM (R83, R345). Whatever the OPEN masks, `IF`, `LY` and `DIV` follow their
rules (log 25); what the length loads load is presumed (log 16), what `HDMA1` to `HDMA4` read is log 15, and that `NR52`
changes nothing else log 17. -/
def Obligations.DeviceRegisters : Prop :=
  (∀ (s : State) (r : IoReg) (v : Byte),
    (r ∈ plainRegisters ∨ (∃ i, r = .wave i) ∨ (s.cfg.cgb = true ∧ r ∈ [IoReg.vbk, .svbk, .bcps, .ocps])) →
    let a : Word := BitVec.ofNat 16 (0xFF00 + r.offset)
    peek s a = s.io r ||| s.readOr r ∧ busWrite a v s = s.setIo r (s.masked r (s.io r) v)) ∧
  (∀ (s : State) (v : Byte),
    (peek s 0xFF04 = s.timer.div16.extractLsb' 8 8 ∧
      busWrite 0xFF04 v s = { s with timer := { s.timer with div16 := 0 } } ∧ peek (busWrite 0xFF04 v s) 0xFF04 = 0) ∧
    (peek s 0xFF0F = 0xE0 ||| s.iflag.zeroExtend 8 ∧ busWrite 0xFF0F v s = { s with iflag := v.extractLsb' 0 5 }) ∧
    (peek s 0xFF41 = s.io .stat ||| s.readOr .stat ∧
      (s.writeMask .stat = 0xFC → busWrite 0xFF41 v s = s.setIo .stat ((v &&& 0xFC) ||| (s.io .stat &&& 0x03)))) ∧
    ((peek s 0xFF44).toNat = s.video.ly % 256 ∧ busWrite 0xFF44 v s = s)) ∧
  (∀ (s : State) (v : Byte),
    let put := fun (r : IoReg) => s.setIo r (s.masked r (s.io r) v)
    let a := s.audio
    let on := fun (b : Bool) (n : Nat) => if b then n else 0
    peek s 0xFF26 = s.readOr .nr52 |||
      BitVec.ofNat 8 (on a.master 128 + on a.ch4.on 8 + on a.ch3.on 4 + on a.ch2.on 2 + on a.ch1.on 1) ∧
    (s.writeMask .nr52 = 0x80 → busWrite 0xFF26 v s = { s with audio := { a with master := v.getLsbD 7 } }) ∧
    (∀ r ∈ [IoReg.nr11, .nr14, .nr21, .nr24, .nr31, .nr34, .nr41, .nr44, .bank],
      peek s (BitVec.ofNat 16 (0xFF00 + r.offset)) = s.io r ||| s.readOr r) ∧
    busWrite 0xFF11 v s = { put .nr11 with audio := { a with ch1 := { a.ch1 with length := 64 - v.toNat % 64 } } } ∧
    busWrite 0xFF16 v s = { put .nr21 with audio := { a with ch2 := { a.ch2 with length := 64 - v.toNat % 64 } } } ∧
    busWrite 0xFF1B v s = { put .nr31 with audio := { a with ch3 := { a.ch3 with length := 256 - v.toNat } } } ∧
    busWrite 0xFF20 v s = { put .nr41 with audio := { a with ch4 := { a.ch4 with length := 64 - v.toNat % 64 } } } ∧
    (∀ r ∈ [IoReg.nr14, .nr24, .nr34, .nr44],
      ∃ x, busWrite (BitVec.ofNat 16 (0xFF00 + r.offset)) v s = { put r with audio := x }) ∧
    busWrite 0xFF50 v s = { put .bank with bootMapped := s.bootMapped && decide (v = 0) }) ∧
  (∀ (s : State) (v : Byte), s.cfg.cgb = true →
    let hi := fun (r : IoReg) (w : Word) => s.masked r (w.extractLsb' 8 8) v ++ w.extractLsb' 0 8
    let lo := fun (r : IoReg) (w : Word) => w.extractLsb' 8 8 ++ s.masked r (w.extractLsb' 0 8) v
    let d := s.hdma
    peek s 0xFF51 = d.src.extractLsb' 8 8 ||| s.readOr .hdma1 ∧ peek s 0xFF52 = d.src.extractLsb' 0 8 ||| s.readOr .hdma2 ∧
    peek s 0xFF53 = d.dst.extractLsb' 8 8 ||| s.readOr .hdma3 ∧ peek s 0xFF54 = d.dst.extractLsb' 0 8 ||| s.readOr .hdma4 ∧
    busWrite 0xFF51 v s = { s with hdma := { d with src := hi .hdma1 d.src } } ∧
    busWrite 0xFF52 v s = { s with hdma := { d with src := lo .hdma2 d.src } } ∧
    busWrite 0xFF53 v s = { s with hdma := { d with dst := hi .hdma3 d.dst } } ∧
    busWrite 0xFF54 v s = { s with hdma := { d with dst := lo .hdma4 d.dst } } ∧
    PalettePort s 0xFF69 .bcpd .bcps bgPalKey v ∧ PalettePort s 0xFF6B .ocpd .ocps objPalKey v)

/-- R83, R84: in colour mode a write of `HDMA5` with bit 7 clear cancels an active transfer without a copy, one with bit 7 set
starts or restarts it; without an active transfer it copies all bytes at once into video RAM and stalls the engine; the service
of a block copies 16 bytes, from the source and to the destination without their low four bits, and stalls for them. The bytes
copied are stated for a source that has no effect on read and does not lie among the destination bytes. Outside colour mode the
five registers are not there and no block is served; of a flag that a launch leaves set there that is the model's choice. The bank written, what is left of the registers and how stalls add are the model's (log 15). -/
def Obligations.ColourDma : Prop :=
  (∀ (s : State) (a : Word), s.cfg.cgb = false → 0xFF51 ≤ a.toNat → a.toNat ≤ 0xFF55 → NothingAt s a) ∧
  (∀ (s : State) (v : Byte), s.cfg.cgb = true →
    let t := busWrite 0xFF55 v s
    (s.hdma.active = true → peek s 0xFF55 = s.hdma.remaining.zeroExtend 8) ∧
    (v.toNat < 128 → s.hdma.active = true →
      t = { s with hdma := { s.hdma with active := false } } ∧ peek t 0xFF55 = 0x80 ||| s.hdma.remaining.zeroExtend 8) ∧
    (128 ≤ v.toNat → t = { s with hdma := { s.hdma with remaining := BitVec.ofNat 7 v.toNat, active := true } } ∧
      peek t 0xFF55 = v &&& 0x7F) ∧
    (v.toNat < 128 → s.hdma.active = false →
      let len := (v.toNat + 1) * 16
      let src := s.hdma.src.toNat / 16 * 16
      let dst := s.hdma.dst.toNat % 0x2000 / 16 * 16
      t.hdma.stall = s.cfg.gdmaTicksPerByte * len ∧ peek t 0xFF55 = 0xFF ∧
      (PlainSource s src dst len → dst + len ≤ 0x2000 → CopiedToVram s t src dst len))) ∧
  (∀ s : State, s.cfg.cgb = false ∨ s.hdma.active = false → hblankDma s = s) ∧
  (∀ s : State, s.cfg.cgb = true → s.hdma.active = true →
    let t := hblankDma s
    let src := s.hdma.src.toNat / 16 * 16
    let dst := s.hdma.dst.toNat % 0x2000 / 16 * 16
    t.hdma = { src := s.hdma.src + 16, dst := s.hdma.dst + 16, remaining := s.hdma.remaining - 1
               active := decide (s.hdma.remaining ≠ 0), stall := s.hdma.stall + s.cfg.gdmaTicksPerByte * 16 } ∧
    (s.hdma.remaining = 0 → peek t 0xFF55 = 0xFF) ∧
    (PlainSource s src dst 16 → CopiedToVram s t src dst 16))

/-! ## Timer and joypad -/

/-- R325, R327, R328: one tick of the timer: the reload that is due, with its request; the divider; then one increment if the
selected input falls, with the overflow. -/
def Obligations.TimerTick : Prop :=
  ∀ s : State,
    let t := timerStep s
    let tac := s.io .tac
    let tima := if s.timer.reloadPending then s.io .tma else s.io .tima
    let div' := s.timer.div16 + 1
    let sel := if tac.toNat % 4 = 0 then 9 else if tac.toNat % 4 = 1 then 3 else if tac.toNat % 4 = 2 then 5 else 7
    let tin := tac.getLsbD 2 && div'.getLsbD sel
    let falls := s.timer.tinPrev && !tin
    t = { s with mem := t.mem, timer := t.timer, iflag := t.iflag } ∧
    t.timer.div16 = div' ∧ t.timer.tinPrev = tin ∧
    t.timer.reloadPending = (falls && decide (tima = 0xFF)) ∧
    t.io .tima = (if falls = true then tima + 1 else tima) ∧
    (∀ k, k ≠ ioKey .tima → t.cell k = s.cell k) ∧
    t.iflag = (if s.timer.reloadPending then s.iflag ||| 0b00100 else s.iflag)

/-- The joypad (R332), whatever the layout of the host's mask: a line reads 0 for a pressed button of a selected group; a line
that falls requests the interrupt at the bus step; a write of `P1`, under the mask 0x30 the default names, changes the selection
alone. -/
def Obligations.JoypadPort : Prop :=
  ∀ (s : State) (v : Byte),
    let pressed := fun (i : Fin 8) => s.joy.mask.getLsbD (Config.joypadLayout i)
    let low := fun (i : Fin 4) =>
      (s.joy.select.getLsbD 0 = false ∧ pressed (i.castLE (by decide)) = true) ∨
      (s.joy.select.getLsbD 1 = false ∧ pressed (i.natAdd 4) = true)
    let t := joypadStep s
    (∀ i : Fin 4, (peek s 0xFF00).getLsbD i = false ↔ low i) ∧
    (∀ i < 2, (peek s 0xFF00).getLsbD (4 + i) = s.joy.select.getLsbD i) ∧
    (peek s 0xFF00).getLsbD 6 = true ∧ (peek s 0xFF00).getLsbD 7 = true ∧
    t = { s with joy := { s.joy with lines := (peek s 0xFF00).extractLsb' 0 4 }, iflag := t.iflag } ∧
    ((∃ i : Fin 4, s.joy.lines.getLsbD i = true ∧ low i) → t.iflag = s.iflag ||| 0b10000) ∧
    ((∀ i : Fin 4, s.joy.lines.getLsbD i = true → ¬low i) → t.iflag = s.iflag) ∧
    (s.writeMask .p1 = 0x30 → busWrite 0xFF00 v s = { s with joy := { s.joy with select := v.extractLsb' 4 2 } })

/-! ## Video -/

/-- R340 to R342, R346: the requests of a video step. With the display on, `IF[0]` at line 144, dot 0; `IF[1]` for a line match
(`STAT[6]`), the OAM scan (`STAT[5]`), VBlank (`STAT[4]`) and HBlank (`STAT[3]`), each enabled. No other bit is set and none is
cleared. With the display off nothing is requested, the whole buffer is blank, and the position and the mode are 0. -/
def Obligations.VideoRequests : Prop :=
  ∀ s : State, s.cfg.Ok →
    let t := videoStep s
    let st := fun (i : Nat) => (s.io .stat).getLsbD i = true
    (lcdOn s = true →
      (∀ i, 2 ≤ i → t.iflag.getLsbD i = s.iflag.getLsbD i) ∧
      (t.iflag.getLsbD 0 = true ↔ s.iflag.getLsbD 0 = true ∨ (s.video.ly = 144 ∧ s.video.dot = 0)) ∧
      (t.iflag.getLsbD 1 = true ↔ s.iflag.getLsbD 1 = true ∨
        (s.video.dot = 0 ∧ (s.io .lyc).toNat = s.video.ly ∧ st 6) ∨
        (s.video.dot = 0 ∧ s.video.ly < 144 ∧ st 5) ∨
        (s.video.dot = 0 ∧ s.video.ly = 144 ∧ st 4) ∨
        (s.video.dot = s.cfg.hblankDot ∧ s.video.ly < 144 ∧ st 3))) ∧
    (lcdOn s = false → t.iflag = s.iflag ∧ t.hdma = s.hdma ∧ t.video.dot = 0 ∧ t.video.ly = 0 ∧ statMode t = 0 ∧
      ∀ x y, x < 160 → y < 144 → framePixel t x y = s.cfg.blankRgba)

/-- R336, R339, R341: the scanline state machine. A step with the display on advances the dot, the line and the frame; the mode
is 2 from dot 0 of a visible line, 3 from dot 80, 0 from `HBLANK_DOT`, and 1 from line 144 on; the match flag is latched at dot
0 of every line; the enables in `STAT` stay; the window line counter starts a frame at 0 and counts the lines the window was
drawn on, which is marked by a pixel the window covers and unmarked at the line's start; HBlank serves one block of a DMA,
which is all that changes in memory but `STAT`; and a pixel is produced on exactly the 160 dots from `PIXEL_START_DOT` on, at
its place in the buffer, with its two bits in the scratch buffers, which a new frame clears. The mark of the window and what
the scratch buffers hold are the model's (log 22). -/
def Obligations.ScanlineStateMachine : Prop :=
  ∀ s : State, s.cfg.Ok → lcdOn s = true →
    let t := videoStep s
    let visible := s.video.ly < 144
    let newFrame := s.video.ly = 0 ∧ s.video.dot = 0
    let drawn := visible ∧ s.cfg.pixelStartDot ≤ s.video.dot ∧ s.video.dot ≤ s.cfg.pixelStartDot + 159
    let x := s.video.dot - s.cfg.pixelStartDot
    let hb := visible ∧ s.video.dot = s.cfg.hblankDot
    let covered := (s.io .lcdc).getLsbD 5 = true ∧ (s.io .wy).toNat ≤ s.video.ly ∧ (s.io .wx).toNat ≤ x + 7
    t.video.dot = (if s.video.dot = 455 then 0 else s.video.dot + 1) ∧
    t.video.ly = (if s.video.dot = 455 then (if s.video.ly = 153 then 0 else s.video.ly + 1) else s.video.ly) ∧
    statMode t = (if visible then
        (if s.video.dot = 0 then 2 else if s.video.dot = 80 then 3 else if s.video.dot = s.cfg.hblankDot then 0
          else statMode s)
      else if s.video.dot = 0 then 1 else statMode s) ∧
    (t.io .stat).getLsbD 2 = (if s.video.dot = 0 then decide ((s.io .lyc).toNat = s.video.ly)
      else (s.io .stat).getLsbD 2) ∧
    (∀ i, 3 ≤ i → (t.io .stat).getLsbD i = (s.io .stat).getLsbD i) ∧
    t.video.winLine = (if newFrame then 0
      else if hb ∧ s.video.winDrawn = true then s.video.winLine + 1 else s.video.winLine) ∧
    t.video.winDrawn = (if visible ∧ s.video.dot = 0 then false
      else if drawn ∧ covered then true else s.video.winDrawn) ∧
    (hb → t.hdma = (hblankDma (setMode 0 s)).hdma ∧ t.mem = (hblankDma (setMode 0 s)).mem ∧
      t.rtc = (hblankDma (setMode 0 s)).rtc) ∧
    (¬hb → t.hdma = s.hdma ∧ t.rtc = s.rtc ∧ ∀ k, k ≠ ioKey .stat → t.cell k = s.cell k) ∧
    (drawn → ∀ i, t.video.frame.get i = if i = s.video.ly * 160 + x then pixel s x else s.video.frame.get i) ∧
    (¬drawn → t.video.frame = s.video.frame) ∧
    (∀ i < 160, t.video.bgPriority.getLsbD i =
      (if newFrame then false else if drawn ∧ i = x then bgOnTop s x else s.video.bgPriority.getLsbD i)) ∧
    (∀ i < 160, t.video.bgDrawn.getLsbD i =
      (if newFrame then false else if drawn ∧ i = x then bgNonZero s x else s.video.bgDrawn.getLsbD i))

/-- R337, R344: the sprites of a line are the first ten by ascending OAM index that cover it, listed at dot 0 of a visible line
and at no other position; at a column the sprite shown is, among those listed whose pixel there is not transparent, the one of
smallest X, then of smallest OAM index. The pixel of a sprite on its line: the tile row from 0x8000, with the 16-line mode and
the two flips, and the colour index of its two bit planes. A row outside the sprite, the bank of a sprite's tile in colour mode
and its place among the attributes are the model's (log 22). -/
def Obligations.Sprites : Prop :=
  (∀ s : State, s.cfg.Ok → lcdOn s = true →
    let l := (videoStep s).video.sprites
    (¬(s.video.ly < 144 ∧ s.video.dot = 0) → l = s.video.sprites) ∧
    (s.video.ly < 144 → s.video.dot = 0 →
      l.Pairwise (· < ·) ∧ l.length ≤ 10 ∧ (∀ k ∈ l, k < 40 ∧ CoversLine s k) ∧
      ∀ k < 40, CoversLine s k → k ∉ l → l.length = 10 ∧ ∀ j ∈ l, j < k)) ∧
  (∀ (s : State) (x : Nat) (p : SpritePixel), spriteAt s x = some p ↔
    (s.io .lcdc).getLsbD 1 = true ∧ p.k ∈ s.video.sprites ∧ spritePixel s x p.k = some p ∧
    ∀ k ∈ s.video.sprites, ∀ q, spritePixel s x k = some q → p.x < q.x ∨ (p.x = q.x ∧ p.k ≤ q.k)) ∧
  (∀ (s : State) (x : Nat), spriteAt s x = none ↔
    (s.io .lcdc).getLsbD 1 = false ∨ ∀ k ∈ s.video.sprites, spritePixel s x k = none) ∧
  (∀ (s : State) (x k : Nat), CoversLine s k →
    let sx := spriteByte s k 1
    let attr : Byte := s.cell (oamKey (4 * k + 3))
    let tall := (s.io .lcdc).getLsbD 2 = true
    let r := s.video.ly + 16 - spriteByte s k 0
    let row := if attr.getLsbD 6 then (if tall then 15 else 7) - r else r
    let n := 0x8000 + 16 * (if tall then spriteByte s k 2 / 2 * 2 else spriteByte s k 2) + 2 * row
    let b := if attr.getLsbD 5 then x + 8 - sx else 7 - (x + 8 - sx)
    let plane := fun (m : Nat) =>
      if (s.cell (vramKey (if s.cfg.cgb = true ∧ attr.getLsbD 3 = true then 1 else 0) m)).getLsbD b then 1 else 0
    let idx := plane (n + 1) * 2 + plane n
    spritePixel s x k = if sx ≤ x + 8 ∧ x + 8 < sx + 8 ∧ idx ≠ 0 then
      some { x := sx, k := k, attr := attr, sidx := idx } else none)

/-- R343 to R345: the pixel at a column. The background or window: the map entry, the tile row, the two bit planes, in colour
mode the tile's bank and flips. Its colour: the palette register and the gray levels, or the little-endian entry of palette
RAM, each 5-bit channel `v` as `(v * 255 + 15) div 31`. The sprite of the column stands over it unless a priority bit keeps a
non-zero background in front. In colour mode the joining of R344 and R345, and the palette of a sprite, are the model's (log
22). -/
def Obligations.PixelOutput : Prop :=
  ∀ (s : State) (x : Nat),
    let lcdc := fun (i : Nat) => (s.io .lcdc).getLsbD i = true
    let win := lcdc 5 ∧ (s.io .wy).toNat ≤ s.video.ly ∧ (s.io .wx).toNat ≤ x + 7
    let px := if win then x + 7 - (s.io .wx).toNat else (x + (s.io .scx).toNat) % 256
    let py := if win then s.video.winLine else (s.video.ly + (s.io .scy).toNat) % 256
    let map := if (win ∧ lcdc 6) ∨ (¬win ∧ lcdc 3) then 0x9C00 else 0x9800
    let entry := map + 32 * (py / 8) + px / 8
    let tile := s.cell (vramKey 0 entry)
    let attr := s.cell (vramKey 1 entry)
    let d : Int := if lcdc 4 then 0x8000 + 16 * (tile.toNat : Int) else 0x9000 + 16 * tile.toInt
    let index := fun (bank row b : Nat) =>
      (if (s.cell (vramKey bank (d.toNat + 2 * row + 1))).getLsbD b then 2 else 0) +
      (if (s.cell (vramKey bank (d.toNat + 2 * row))).getLsbD b then 1 else 0)
    let gray := fun (pal : Byte) (i : Nat) =>
      let g := pal.toNat / 4 ^ i % 4
      if g = 0 then s.cfg.gray0 else if g = 1 then s.cfg.gray1 else if g = 2 then s.cfg.gray2 else s.cfg.gray3
    let rgb := fun (key : Nat → Nat) (p i : Nat) =>
      let c := (s.cell (key (8 * p + 2 * i + 1))).toNat * 256 + (s.cell (key (8 * p + 2 * i))).toNat
      let byte := fun (v : Nat) => (v % 32 * 255 + 15) / 31
      BitVec.ofNat 32 (((byte c * 256 + byte (c / 32)) * 256 + byte (c / 1024)) * 256 + 0xFF)
    (s.cfg.cgb = false →
      let idx := if lcdc 0 then index 0 (py % 8) (7 - px % 8) else 0
      bgNonZero s x = decide (idx ≠ 0) ∧ bgOnTop s x = false ∧
      (spriteAt s x = none → pixel s x = gray (s.io .bgp) idx) ∧
      ∀ p, spriteAt s x = some p → pixel s x =
        if p.attr.getLsbD 7 = true ∧ idx ≠ 0 then gray (s.io .bgp) idx
        else gray (if p.attr.getLsbD 4 then s.io .obp1 else s.io .obp0) p.sidx) ∧
    (s.cfg.cgb = true →
      let idx := index (if attr.getLsbD 3 then 1 else 0) (if attr.getLsbD 6 then 7 - py % 8 else py % 8)
        (if attr.getLsbD 5 then px % 8 else 7 - px % 8)
      bgNonZero s x = decide (idx ≠ 0) ∧ bgOnTop s x = attr.getLsbD 7 ∧
      (spriteAt s x = none → pixel s x = rgb bgPalKey (attr.toNat % 8) idx) ∧
      ∀ p, spriteAt s x = some p → pixel s x =
        if lcdc 0 ∧ (p.attr.getLsbD 7 = true ∨ attr.getLsbD 7 = true) ∧ idx ≠ 0 then rgb bgPalKey (attr.toNat % 8) idx
        else rgb objPalKey (p.attr.toNat % 8) p.sidx)

/-! ## Audio -/

/-- R79, R354: a write of a trigger register with bit 7 set re-initialises the channel and sets its enabled bit; without bit 7
it does not. The period value is the one in the registers after the write. -/
def Obligations.AudioTrigger : Prop :=
  ∀ (s : State) (v : Byte),
    let full := fun (n m : Nat) => if n = 0 then m else n
    let f := fun (t : State) (lo hi : IoReg) => (t.io hi).toNat % 8 * 256 + (t.io lo).toNat
    let env := fun (r : IoReg) => ({ vol := (s.io r).extractLsb' 4 4, count := (s.io r).toNat % 8 } : Envelope)
    let a := s.audio
    (v.toNat < 128 →
      (busWrite 0xFF14 v s).audio = a ∧ (busWrite 0xFF19 v s).audio = a ∧
      (busWrite 0xFF1E v s).audio = a ∧ (busWrite 0xFF23 v s).audio = a) ∧
    (128 ≤ v.toNat →
      (let t := busWrite 0xFF14 v s
       t.audio = { a with
         ch1 := { a.ch1 with on := true, timer := BitVec.ofNat 32 ((2048 - f t .nr13 .nr14) * 4), length := full a.ch1.length 64 }
         env1 := env .nr12
         sweep := { shadow := BitVec.ofNat 11 (f t .nr13 .nr14), count := (s.io .nr10).toNat / 16 % 8 } }) ∧
      (let t := busWrite 0xFF19 v s
       t.audio = { a with
         ch2 := { a.ch2 with on := true, timer := BitVec.ofNat 32 ((2048 - f t .nr23 .nr24) * 4), length := full a.ch2.length 64 }
         env2 := env .nr22 }) ∧
      (let t := busWrite 0xFF1E v s
       t.audio = { a with
         ch3 := { a.ch3 with
           on := true, timer := BitVec.ofNat 32 ((2048 - f t .nr33 .nr34) * 2), length := full a.ch3.length 256 } }) ∧
      (let t := busWrite 0xFF23 v s
       let d := (s.io .nr43).toNat % 8
       t.audio = { a with
         ch4 := { a.ch4 with
           on := true, phase := 0x7FFF, length := full a.ch4.length 64
           timer := BitVec.ofNat 32 ((if d = 0 then 8 else 16 * d) * 2 ^ ((s.io .nr43).toNat / 16)) }
         env4 := env .nr42 }))

/-- An audio step (R351 to R353). The frame sequencer acts on the ticks its divisors select: a length counter that is limited
and not 0 counts down and disables its channel on reaching 0; an envelope whose counter expires steps the volume and disables
its channel on decaying to 0, never on rising; a sweep whose counter expires disables channel 1 beyond 2047 and otherwise, with
a shift, makes the new period the shadow and the period value; nothing else changes an enabled bit. Then the period counter of
an enabled channel counts down, or is reloaded while the phase advances: one step of the duty row, of the wave, or of the shift
register. That a counter of 0 or 1 expires, and the order of the steps, are the model's reading (log 17), as is that the
envelopes' and the sweep's parameters are read from their registers as they stand (log 18). -/
def Obligations.ChannelSteps : Prop :=
  ∀ s : State,
    let t := audioStep s
    let at' := fun (dv : Nat) => s.audio.fs.toNat % dv = 0
    let limited := fun (r : IoReg) (n : Nat) => at' s.cfg.lenDiv ∧ (s.io r).getLsbD 6 = true ∧ 0 < n
    let len := fun (r : IoReg) (n : Nat) => if limited r n then n - 1 else n
    let runsOut := fun (r : IoReg) (n : Nat) => limited r n ∧ n = 1
    let expires := fun (r : IoReg) (e : Envelope) => at' 16384 ∧ (s.io r).toNat % 8 ≠ 0 ∧ e.count ≤ 1
    let vol := fun (r : IoReg) (e : Envelope) =>
      if expires r e then
        (if (s.io r).getLsbD 3 then min 15 (e.vol.toNat + 1) else e.vol.toNat - 1)
      else e.vol.toNat
    let decays := fun (r : IoReg) (e : Envelope) => expires r e ∧ (s.io r).getLsbD 3 = false ∧ e.vol.toNat = 1
    let envCount := fun (r : IoReg) (e : Envelope) =>
      if at' 16384 ∧ (s.io r).toNat % 8 ≠ 0 then (if e.count ≤ 1 then (s.io r).toNat % 8 else e.count - 1) else e.count
    let nr10 := (s.io .nr10).toNat
    let sh := s.audio.sweep.shadow.toNat
    let nf := if (s.io .nr10).getLsbD 3 then sh - sh / 2 ^ (nr10 % 8) else sh + sh / 2 ^ (nr10 % 8)
    let sweepDue := at' s.cfg.sweepDiv ∧ nr10 / 16 % 8 ≠ 0
    let sweeps := sweepDue ∧ s.audio.sweep.count ≤ 1 ∧ 2047 < nf
    let moves := sweepDue ∧ s.audio.sweep.count ≤ 1 ∧ nf ≤ 2047 ∧ nr10 % 8 ≠ 0
    let f := fun (u : State) (lo hi : IoReg) => (u.io hi).toNat % 8 * 256 + (u.io lo).toNat
    let nr43 := (s.io .nr43).toNat
    let lfsr := s.audio.ch4.phase
    t.audio.ch1.length = len .nr14 s.audio.ch1.length ∧ t.audio.ch2.length = len .nr24 s.audio.ch2.length ∧
    t.audio.ch3.length = len .nr34 s.audio.ch3.length ∧ t.audio.ch4.length = len .nr44 s.audio.ch4.length ∧
    t.audio.env1.vol.toNat = vol .nr12 s.audio.env1 ∧ t.audio.env2.vol.toNat = vol .nr22 s.audio.env2 ∧
    t.audio.env4.vol.toNat = vol .nr42 s.audio.env4 ∧
    (t.audio.ch1.on = true ↔ s.audio.ch1.on = true ∧ ¬runsOut .nr14 s.audio.ch1.length ∧ ¬sweeps ∧
      ¬decays .nr12 s.audio.env1) ∧
    (t.audio.ch2.on = true ↔ s.audio.ch2.on = true ∧ ¬runsOut .nr24 s.audio.ch2.length ∧ ¬decays .nr22 s.audio.env2) ∧
    (t.audio.ch3.on = true ↔ s.audio.ch3.on = true ∧ ¬runsOut .nr34 s.audio.ch3.length) ∧
    (t.audio.ch4.on = true ↔ s.audio.ch4.on = true ∧ ¬runsOut .nr44 s.audio.ch4.length ∧ ¬decays .nr42 s.audio.env4) ∧
    t.audio.env1.count = envCount .nr12 s.audio.env1 ∧ t.audio.env2.count = envCount .nr22 s.audio.env2 ∧
    t.audio.env4.count = envCount .nr42 s.audio.env4 ∧
    t.audio.sweep.count = (if sweepDue then (if s.audio.sweep.count ≤ 1 then nr10 / 16 % 8 else s.audio.sweep.count - 1)
      else s.audio.sweep.count) ∧
    t.audio.sweep.shadow.toNat = (if moves then nf else sh) ∧
    f t .nr13 .nr14 = (if moves then nf else f s .nr13 .nr14) ∧ (t.io .nr14).toNat / 8 = (s.io .nr14).toNat / 8 ∧
    (∀ k, k ≠ ioKey .nr13 → k ≠ ioKey .nr14 → t.cell k = s.cell k) ∧
    Ticked s.audio.ch1 t.audio.ch1 ((2048 - f t .nr13 .nr14) * 4) (s.audio.ch1.phase + 1) ∧
    Ticked s.audio.ch2 t.audio.ch2 ((2048 - f t .nr23 .nr24) * 4) (s.audio.ch2.phase + 1) ∧
    Ticked s.audio.ch3 t.audio.ch3 ((2048 - f t .nr33 .nr34) * 2) (s.audio.ch3.phase + 1) ∧
    (∃ next : BitVec 15,
      (∀ i < 15, next.getLsbD i = if i = 14 ∨ (i = 6 ∧ (s.io .nr43).getLsbD 3 = true)
        then lfsr.getLsbD 0 != lfsr.getLsbD 1 else lfsr.getLsbD (i + 1)) ∧
      Ticked s.audio.ch4 t.audio.ch4 ((if nr43 % 8 = 0 then 8 else 16 * (nr43 % 8)) * 2 ^ (nr43 / 16)) next) ∧
    t.audio.fs = s.audio.fs + 1 ∧ t.audio.master = s.audio.master ∧ t.audio.out = s.audio.out

/-- R353, R355: the channels' samples and the mix. A pulse channel gives its volume where the duty row has a 1, the wave
channel the nibble at its phase, the high one first, shifted right by the code's 4, 0, 1 or 2, the noise channel its volume
while bit 0 of the register is 0. Each enabled channel contributes its sample of 0 to 15 to the sides it is routed to; a side
is the sum times its 3-bit volume, divided by 7, and stays in 0 to 60; it is 0 while the audio master is off. The pairs taken
on a tick are the mix after the channels' tick. That the leftmost digit of a duty row is phase 0 is the model's choice (log
18), the order within a tick log 17. -/
def Obligations.Mixing : Prop :=
  ∀ s : State,
    let duty := [[0, 0, 0, 0, 0, 0, 0, 1], [1, 0, 0, 0, 0, 0, 0, 1], [1, 0, 0, 0, 0, 1, 1, 1], [0, 1, 1, 1, 1, 1, 1, 0]]
    let pulse := fun (r : IoReg) (ch : Channel 3) (e : Envelope) =>
      if (duty.getD ((s.io r).toNat / 64) []).getD ch.phase.toNat 0 = 1 then e.vol.toNat else 0
    let i := s.audio.ch3.phase.toNat
    let w := (s.io (.wave (BitVec.ofNat 4 (i / 2)))).toNat
    let out1 := pulse .nr11 s.audio.ch1 s.audio.env1
    let out2 := pulse .nr21 s.audio.ch2 s.audio.env2
    let out3 := (if i % 2 = 0 then w / 16 else w % 16) / 2 ^ ([4, 0, 1, 2].getD ((s.io .nr32).toNat / 32 % 4) 0)
    let out4 := if s.audio.ch4.phase.getLsbD 0 then 0 else s.audio.env4.vol.toNat
    let pan := fun (i : Nat) => (s.io .nr51).getLsbD i
    let side := fun (i : Nat) =>
      (if s.audio.ch1.on = true ∧ pan i = true then out1 else 0) +
      (if s.audio.ch2.on = true ∧ pan (i + 1) = true then out2 else 0) +
      (if s.audio.ch3.on = true ∧ pan (i + 2) = true then out3 else 0) +
      (if s.audio.ch4.on = true ∧ pan (i + 3) = true then out4 else 0)
    let t := audioStep s
    out1 ≤ 15 ∧ out2 ≤ 15 ∧ out3 ≤ 15 ∧ out4 ≤ 15 ∧
    (s.audio.master = true → mixLeft s = side 4 * ((s.io .nr50).toNat / 16 % 8) / 7 ∧
      mixRight s = side 0 * ((s.io .nr50).toNat % 8) / 7) ∧
    (s.audio.master = false → mixLeft s = 0 ∧ mixRight s = 0) ∧
    side 0 ≤ 60 ∧ side 4 ≤ 60 ∧ mixLeft s ≤ 60 ∧ mixRight s ≤ 60 ∧
    ∃ n, t.audio.pairs = List.replicate n (mixLeft t, mixRight t) ++ s.audio.pairs

/-- R347, R356, R359: frame calls. Exactly one buffer of `SAMPLES_PER_FRAME` stereo pairs is made in each: the cadence is an
invariant of every step, and the step that ends a call hands out a buffer of exactly that many pairs, those taken before first.
A call ends at a frame boundary, where alone the host sees the two buffers, and returns both at their fixed sizes: pixels row
by row, four bytes R, G, B, A each, and samples left before right. What a call is whose clock stops, or is stopped, is log 9,
what then stands in the sample buffer log 19. -/
def Obligations.FrameCalls : Prop :=
  (∀ s t : State, CadenceOk s → step s = .next t → CadenceOk t) ∧
  (∀ s t : State, CadenceOk s → clockStopped s = false → s.session.frameTick = 70223 → step s = .next t →
    (∃ l, t.audio.out = s.audio.pairs.reverse ++ l) ∧ t.audio.out.length = s.cfg.samplesPerFrame ∧
    t.audio.pairs = [] ∧ t.session.frameTick = 0) ∧
  CadenceOk State.reset ∧
  (∀ n k : Nat, k < n → k * 70224 / n < 70224) ∧
  (∀ s : State, s.session.frameTick = 0 → ∃ r t, frameCall s = (some r, t) ∧ t.session.frameTick = 0 ∧
    frameResult t = some r ∧ r.pixels.length = 92160 ∧ r.samples.length = 2 * s.cfg.samplesPerFrame) ∧
  (∀ s : State, s.session.frameTick ≠ 0 → frameResult s = none) ∧
  ∀ (s : State) (r : FrameResult), frameResult s = some r →
    (∀ x y j, x < 160 → y < 144 → j < 4 →
      r.pixels[4 * (160 * y + x) + j]? = some ((framePixel s x y).extractLsb' (24 - 8 * j) 8)) ∧
    (s.audio.pairs = [] → ∀ k p, k < s.cfg.samplesPerFrame → s.audio.out[k]? = some p →
      r.samples[2 * k]? = some (Config.sampleFormat p.1) ∧ r.samples[2 * k + 1]? = some (Config.sampleFormat p.2))

/-! ## Reset and invariants -/

/-- R44: the state after construction, for every launch: the values the reset table gives, and the launch's own value for
everything the table leaves unspecified or to the host; the images supplied, byte by byte, in cartridge ROM, boot ROM and cartridge
RAM, and the launch's contents everywhere else. An OPEN parameter the launch does not give has its default, so that a colour session
has eight work-RAM banks (R6). The model's `State.reset` is one such launch, with a boot ROM (log 1). -/
def Obligations.ResetValues : Prop :=
  (∀ (p : Params) (v : Init),
    let s := resetWith p v
    s.cpu.cur = none ∧ s.cpu.ustep = 0 ∧ s.cpu.ime = false ∧ s.cpu.eiDelay = 0 ∧ s.cpu.halted = false ∧
    s.cpu.stopped = false ∧ s.cpu.nextInt = none ∧ s.cpu.f.toByte &&& 0x0F = 0 ∧
    (p.boot ≠ .absent → s.cpu.pc = 0x0000 ∧ s.bootMapped = true) ∧ (p.boot = .absent → s.bootMapped = false) ∧
    s.hdma.stall = 0 ∧ s.dma.left = 0 ∧ s.iflag = 0 ∧ peek s 0xFF0F = 0xE0 ∧ s.ie = 0 ∧
    vramBank s = 0 ∧ wramBank s = 1 ∧
    s.timer.div16 = 0 ∧ s.io .tima = 0 ∧ s.io .tma = 0 ∧ s.io .tac = 0 ∧
    s.timer.tinPrev = false ∧ s.timer.reloadPending = false ∧
    s.io .lcdc = 0 ∧ s.io .stat = 0 ∧ nr52Bits s.audio = 0 ∧
    s.joy.lines = 0xF ∧ s.joy.select = 0b11 ∧ s.audio.fs = 0 ∧
    s.mbc.romBank = 1 ∧ s.mbc.ramSel = 0 ∧ s.mbc.bankHi = 0 ∧ s.mbc.ramEn = false ∧ s.mbc.mode = false ∧
    s.video.dot = 0 ∧ s.video.ly = 0 ∧ s.video.winLine = 0 ∧ s.video.sprites = [] ∧
    s.video.bgPriority = 0 ∧ s.video.bgDrawn = 0 ∧
    s.audio.ch1.timer = 0 ∧ s.audio.ch2.timer = 0 ∧ s.audio.ch3.timer = 0 ∧ s.audio.ch4.timer = 0 ∧
    s.audio.ch1.length = 0 ∧ s.audio.ch2.length = 0 ∧ s.audio.ch3.length = 0 ∧ s.audio.ch4.length = 0 ∧
    s.audio.env1.count = 0 ∧ s.audio.env2.count = 0 ∧ s.audio.env4.count = 0 ∧ s.audio.sweep.count = 0 ∧
    s.cpu.a = v.a ∧ s.cpu.f = v.f ∧ s.cpu.b = v.b ∧ s.cpu.c = v.c ∧ s.cpu.d = v.d ∧ s.cpu.e = v.e ∧ s.cpu.h = v.h ∧
    s.cpu.l = v.l ∧ s.cpu.sp = v.sp ∧ (p.boot = .absent → s.cpu.pc = v.pc) ∧
    s.rtc.dayBase = v.rtcDayBase ∧ s.rtc.secOffset = v.rtcSecOffset ∧ s.rtc.overflow = v.rtcOverflow ∧
    s.dma.src = v.oamDmaSrc ∧ s.hdma.src = v.hdmaSrc ∧ s.hdma.dst = v.hdmaDst ∧ s.hdma.remaining = v.hdmaRemaining ∧
    s.hdma.active = v.hdmaActive ∧
    s.audio.ch1.phase = v.phase1 ∧ s.audio.ch2.phase = v.phase2 ∧ s.audio.ch3.phase = v.phase3 ∧
    s.audio.ch4.phase = v.lfsr ∧ s.audio.env1.vol = v.vol1 ∧ s.audio.env2.vol = v.vol2 ∧ s.audio.env4.vol = v.vol4 ∧
    s.audio.sweep.shadow = v.sweepShadow ∧
    (v.mem.wf → s.io .vbk = v.mem.get (ioKey .vbk) &&& 0xFE ∧ s.io .svbk = v.mem.get (ioKey .svbk) &&& 0xF9) ∧
    ∀ k, k ∉ (IoReg.vbk :: .svbk :: resetRegs).map ioKey → s.cell k = v.mem.get k) ∧
  (∀ (l : Launch) (s : State), construct l = .ok s →
    s = resetWith s.cfg { l.init with mem := launchMemory l } ∧ s.cfg.cgb = l.cgb ∧
    (l.params = none → s.cfg.wramBanks = if l.cgb then 8 else 2) ∧
    (l.boot = none ↔ s.cfg.boot = .absent) ∧
    (∀ i v, l.rom[i]? = some v → s.cell (romKey i) = v) ∧
    (∀ b ∈ l.boot, ∀ i v, b[i]? = some v → s.cell (bootKey i) = v) ∧
    (∀ i v, l.cartRam[i]? = some v → s.cell (cartRamKey (i / 8192) (0xA000 + i % 8192)) = v) ∧
    ∀ k, (∀ i < l.rom.length, k ≠ romKey i) → (∀ b ∈ l.boot, ∀ i < b.length, k ≠ bootKey i) →
      (∀ i < l.cartRam.length, k ≠ cartRamKey (i / 8192) (0xA000 + i % 8192)) →
      (launchMemory l).get k = l.init.mem.get k) ∧
  State.reset = resetWith Params.default Init.default ∧ Params.default.boot ≠ .absent

/-- The state after reset meets the three invariants. -/
def Obligations.ResetMeetsInvariants : Prop :=
  State.reset.memWf ∧ ControlOk State.reset ∧ CountersOk State.reset

/-- Memory keeps its canonical form on every step. -/
def Obligations.StepKeepsMemoryCanonical : Prop :=
  ∀ s t : State, s.memWf → step s = .next t → t.memWf

/-- The engine's control state stays legal on every step: `ei_delay` in 0 to 2 (R33), never both halted and stopped (R320), and
no frame call under way while the clock is stopped (R313, log 9). -/
def Obligations.StepKeepsControlState : Prop :=
  ∀ s t : State, ControlOk s → step s = .next t → ControlOk t

/-- The OAM DMA countdown, the dot and line counters, the sprite list and the tick of the frame stay in their ranges on every
step (R81, R335, R337, R358). -/
def Obligations.StepKeepsCounters : Prop :=
  ∀ s t : State, CountersOk s → step s = .next t → CountersOk t
end

