-- ==== Sys2Proof/Laws/Memory.lean ====
section
/-! SUPPORT. Canonical lists: what a read gives after a write, that a write keeps the canonical form, and the same for memory
and the cells of the state. -/

namespace Sys2Proof.Machine

variable {w : Nat} (dflt : BitVec w)

theorem Sparse.get_erase (k k' : Nat) (m : List (Nat × BitVec w)) :
    Sparse.get dflt (Sparse.erase k m) k' = if k' = k then dflt else Sparse.get dflt m k' := by
  induction m with
  | nil => simp [Sparse.erase, Sparse.get]
  | cons p rest ih =>
    obtain ⟨a, x⟩ := p
    simp only [Sparse.erase, Sparse.get]
    split
    · rename_i h
      rw [ih]
      by_cases hk : k' = k
      · rw [if_pos hk, if_pos hk]
      · rw [if_neg hk, if_neg hk, if_neg (fun e => hk (e.symm.trans h))]
    · rename_i h
      simp only [Sparse.get, ih]
      by_cases hk : k' = k
      · rw [if_neg (fun e => h (e.trans hk)), if_pos hk, if_pos hk]
      · simp only [if_neg hk]

theorem Sparse.get_insert_self (k : Nat) (v : BitVec w) (m : List (Nat × BitVec w))
    (h : Sparse.erase k m = m) : Sparse.get dflt (Sparse.insert k v m) k = v := by
  induction m with
  | nil => simp [Sparse.insert, Sparse.get]
  | cons p rest ih =>
    obtain ⟨a, x⟩ := p
    simp only [Sparse.erase] at h
    have hne : a ≠ k := by
      intro e
      rw [if_pos e] at h
      have := congrArg List.length h
      have hle : (Sparse.erase k rest).length ≤ rest.length := by
        clear h ih this
        induction rest with
        | nil => simp [Sparse.erase]
        | cons q r ih2 =>
          simp only [Sparse.erase]; split <;> simp <;> omega
      simp at this; omega
    rw [if_neg hne] at h
    simp only [Sparse.insert]
    split
    · simp [Sparse.get]
    · simp only [Sparse.get, if_neg hne]
      exact ih (by simpa using h)

theorem Sparse.get_insert_ne (k k' : Nat) (v : BitVec w) (m : List (Nat × BitVec w)) (h : k' ≠ k) :
    Sparse.get dflt (Sparse.insert k v m) k' = Sparse.get dflt m k' := by
  induction m with
  | nil => simp [Sparse.insert, Sparse.get, Ne.symm h]
  | cons p rest ih =>
    obtain ⟨a, x⟩ := p
    simp only [Sparse.insert]
    split
    · simp [Sparse.get, Ne.symm h]
    · simp only [Sparse.get, ih]

theorem Sparse.erase_erase (k : Nat) (m : List (Nat × BitVec w)) :
    Sparse.erase k (Sparse.erase k m) = Sparse.erase k m := by
  induction m with
  | nil => rfl
  | cons p rest ih =>
    obtain ⟨a, x⟩ := p
    simp only [Sparse.erase]
    split
    · exact ih
    · simp only [Sparse.erase, *, if_false]

/-- A read after a write: the value written at its key, what was there before at every other key. -/
theorem Sparse.get_set (m : List (Nat × BitVec w)) (k k' : Nat) (v : BitVec w) :
    Sparse.get dflt (Sparse.set dflt m k v) k' = if k' = k then v else Sparse.get dflt m k' := by
  unfold Sparse.set
  split
  · subst_vars; exact Sparse.get_erase _ k k' m
  · by_cases h : k' = k
    · subst h; rw [if_pos rfl]; exact Sparse.get_insert_self dflt _ v _ (Sparse.erase_erase _ m)
    · rw [if_neg h, Sparse.get_insert_ne dflt _ _ _ _ h, Sparse.get_erase, if_neg h]

theorem Sparse.mem_erase {k : Nat} {m : List (Nat × BitVec w)} {p : Nat × BitVec w} :
    p ∈ Sparse.erase k m ↔ p ∈ m ∧ p.1 ≠ k := by
  induction m with
  | nil => simp [Sparse.erase]
  | cons q rest ih =>
    obtain ⟨a, x⟩ := q
    simp only [Sparse.erase]
    split
    · rw [ih]; constructor
      · rintro ⟨h, h'⟩; exact ⟨List.mem_cons_of_mem _ h, h'⟩
      · rintro ⟨h, h'⟩
        rcases List.mem_cons.1 h with h | h
        · subst h; exact absurd ‹a = k› h'
        · exact ⟨h, h'⟩
    · rw [List.mem_cons, List.mem_cons, ih]; constructor
      · rintro (h | ⟨h, h'⟩)
        · subst h; exact ⟨.inl rfl, ‹_›⟩
        · exact ⟨.inr h, h'⟩
      · rintro ⟨h | h, h'⟩
        · exact .inl h
        · exact .inr ⟨h, h'⟩

theorem Sparse.erase_sorted {k : Nat} {m : List (Nat × BitVec w)} (h : m.Pairwise (fun p q => p.1 < q.1)) :
    (Sparse.erase k m).Pairwise (fun p q => p.1 < q.1) := by
  induction m with
  | nil => exact h
  | cons q rest ih =>
    obtain ⟨a, x⟩ := q
    rw [List.pairwise_cons] at h
    simp only [Sparse.erase]
    split
    · exact ih h.2
    · rw [List.pairwise_cons]
      exact ⟨fun p hp => h.1 p (Sparse.mem_erase.1 hp).1, ih h.2⟩

theorem Sparse.mem_insert {k : Nat} {v : BitVec w} {m : List (Nat × BitVec w)} {p : Nat × BitVec w} :
    p ∈ Sparse.insert k v m ↔ p = (k, v) ∨ p ∈ m := by
  induction m with
  | nil => simp [Sparse.insert]
  | cons q rest ih =>
    obtain ⟨a, x⟩ := q
    simp only [Sparse.insert]
    split
    · simp
    · rw [List.mem_cons, ih, List.mem_cons]; tauto

theorem Sparse.insert_sorted {k : Nat} {v : BitVec w} {m : List (Nat × BitVec w)}
    (h : m.Pairwise (fun p q => p.1 < q.1)) (hk : ∀ p ∈ m, p.1 ≠ k) :
    (Sparse.insert k v m).Pairwise (fun p q => p.1 < q.1) := by
  induction m with
  | nil => simp [Sparse.insert]
  | cons q rest ih =>
    obtain ⟨a, x⟩ := q
    have hc := List.pairwise_cons.1 h
    simp only [Sparse.insert]
    split
    · rename_i hlt
      refine List.pairwise_cons.2 ⟨?_, h⟩
      intro p hp
      rcases List.mem_cons.1 hp with hp | hp
      · subst hp; exact hlt
      · exact Nat.lt_trans hlt (hc.1 p hp)
    · rename_i hge
      refine List.pairwise_cons.2 ⟨?_, ih hc.2 (fun p hp => hk p (List.mem_cons_of_mem _ hp))⟩
      intro p hp
      rcases Sparse.mem_insert.1 hp with hp | hp
      · subst hp
        have := hk (a, x) (List.mem_cons_self)
        simp at this hge ⊢; omega
      · exact hc.1 p hp

/-- A write keeps the canonical form. -/
theorem Sparse.wf_set {m : List (Nat × BitVec w)} (h : Sparse.wf dflt m) (k : Nat) (v : BitVec w) :
    Sparse.wf dflt (Sparse.set dflt m k v) := by
  unfold Sparse.set
  split
  · exact ⟨Sparse.erase_sorted h.1, fun p hp => h.2 p (Sparse.mem_erase.1 hp).1⟩
  · refine ⟨Sparse.insert_sorted (Sparse.erase_sorted h.1) (fun p hp => (Sparse.mem_erase.1 hp).2), ?_⟩
    intro p hp
    rcases Sparse.mem_insert.1 hp with hp | hp
    · subst hp; assumption
    · exact h.2 p (Sparse.mem_erase.1 hp).1

theorem Sparse.wf_nil : Sparse.wf dflt ([] : List (Nat × BitVec w)) := by simp [Sparse.wf]

/-! ## Memory -/

theorem Memory.get_set (m : Memory) (k k' : Nat) (v : Byte) :
    (m.set k v).get k' = if k' = k then v else m.get k' := Sparse.get_set _ m k k' v

@[simp] theorem Memory.get_set_self (m : Memory) (k : Nat) (v : Byte) : (m.set k v).get k = v := by
  rw [Memory.get_set, if_pos rfl]

theorem Memory.get_set_ne (m : Memory) {k k' : Nat} (v : Byte) (h : k' ≠ k) : (m.set k v).get k' = m.get k' := by
  rw [Memory.get_set, if_neg h]

/-- Every write of memory keeps its canonical form. -/
theorem Memory.wf_set {m : Memory} (h : m.wf) (k : Nat) (v : Byte) : (m.set k v).wf := Sparse.wf_set _ h k v

/-- Loading an image keeps the canonical form. -/
theorem Memory.wf_load (key : Nat → Nat) {m : Memory} (h : m.wf) (i : Nat) (l : List Byte) :
    (Memory.load key m i l).wf := by
  induction l generalizing m i with
  | nil => exact h
  | cons v rest ih => exact ih (Memory.wf_set h _ _) _

/-- What a cell at construction keeps: its key, and a byte that is listed only if it was. -/
theorem resetCell_some {c d : Host.Cell} (h : resetCell c = some d) :
    d.1 = c.1 ∧ d.2 = c.2 &&& launchBits c.1 ∧ (c.2 ≠ 0x00 → d.2 ≠ 0x00) := by
  unfold resetCell at h
  simp only at h
  split at h
  · next hb => cases h; exact ⟨rfl, by rw [hb, show (0xFF : Byte) = BitVec.allOnes 8 from rfl, BitVec.and_allOnes], id⟩
  · split at h
    · cases h
    · next hz => cases h; exact ⟨rfl, rfl, fun _ => hz⟩

/-- Construction keeps the canonical form of the launch's memory. -/
theorem Memory.wf_reset {m : Memory} (h : m.wf) : (resetMemory m).wf := by
  refine ⟨(List.pairwise_filterMap).2 (h.1.imp fun hlt a ha b hb => ?_), fun d hd => ?_⟩
  · rw [(resetCell_some ha).1, (resetCell_some hb).1]; exact hlt
  · obtain ⟨c, hc, hcd⟩ := List.mem_filterMap.1 hd
    exact (resetCell_some hcd).2.2 (h.2 c hc)

/-! ## Cells of the state -/

theorem State.cell_setCell (s : State) (k k' : Nat) (v : Byte) :
    (s.setCell k v).cell k' = if k' = k then v else s.cell k' := Memory.get_set _ _ _ _

@[simp] theorem State.cell_setCell_self (s : State) (k : Nat) (v : Byte) : (s.setCell k v).cell k = v :=
  Memory.get_set_self _ _ _

theorem State.cell_setCell_ne (s : State) {k k' : Nat} (v : Byte) (h : k' ≠ k) :
    (s.setCell k v).cell k' = s.cell k' := Memory.get_set_ne _ _ h

/-- The register found at a register's offset is that register. -/
theorem ioRegOf_offset (r : IoReg) : ioRegOf r.offset = some r := by
  cases r
  case wave i => revert i; decide
  all_goals rfl

/-- Two registers of the block have one key only if they are one register. -/
theorem ioKey_inj {r r' : IoReg} (h : ioKey r = ioKey r') : r = r' := by
  have h' : r.offset = r'.offset := Nat.add_left_cancel h
  have := ioRegOf_offset r
  rw [h', ioRegOf_offset] at this
  exact (Option.some.inj this).symm

theorem State.io_setIo (s : State) (r r' : IoReg) (v : Byte) :
    (s.setIo r v).io r' = if r' = r then v else s.io r' := by
  by_cases h : r' = r
  · subst h; simp [State.io, State.setIo]
  · rw [if_neg h]; exact State.cell_setCell_ne _ _ (fun e => h (ioKey_inj e))

@[simp] theorem State.io_setIo_self (s : State) (r : IoReg) (v : Byte) : (s.setIo r v).io r = v := by
  rw [State.io_setIo, if_pos rfl]

theorem State.io_setIo_ne (s : State) {r r' : IoReg} (v : Byte) (h : r' ≠ r) : (s.setIo r v).io r' = s.io r' := by
  rw [State.io_setIo, if_neg h]

end Sys2Proof.Machine
end

