-- ==== Sys2Proof/Laws/State.lean ====
section
/-! SUPPORT. One lemma per field per update of the state, so that no proof unfolds a record update. -/

namespace Sys2Proof.Machine

variable (s : State)

/-! ## setCpu -/

@[simp] theorem State.setCpu_cfg (c : Cpu) : (s.setCpu c).cfg = s.cfg := rfl
@[simp] theorem State.setCpu_cpu (c : Cpu) : (s.setCpu c).cpu = c := rfl
@[simp] theorem State.setCpu_iflag (c : Cpu) : (s.setCpu c).iflag = s.iflag := rfl
@[simp] theorem State.setCpu_ie (c : Cpu) : (s.setCpu c).ie = s.ie := rfl
@[simp] theorem State.setCpu_mem (c : Cpu) : (s.setCpu c).mem = s.mem := rfl
@[simp] theorem State.setCpu_bootMapped (c : Cpu) : (s.setCpu c).bootMapped = s.bootMapped := rfl
@[simp] theorem State.setCpu_mbc (c : Cpu) : (s.setCpu c).mbc = s.mbc := rfl
@[simp] theorem State.setCpu_rtc (c : Cpu) : (s.setCpu c).rtc = s.rtc := rfl
@[simp] theorem State.setCpu_timer (c : Cpu) : (s.setCpu c).timer = s.timer := rfl
@[simp] theorem State.setCpu_dma (c : Cpu) : (s.setCpu c).dma = s.dma := rfl
@[simp] theorem State.setCpu_hdma (c : Cpu) : (s.setCpu c).hdma = s.hdma := rfl
@[simp] theorem State.setCpu_joy (c : Cpu) : (s.setCpu c).joy = s.joy := rfl
@[simp] theorem State.setCpu_video (c : Cpu) : (s.setCpu c).video = s.video := rfl
@[simp] theorem State.setCpu_audio (c : Cpu) : (s.setCpu c).audio = s.audio := rfl
@[simp] theorem State.setCpu_session (c : Cpu) : (s.setCpu c).session = s.session := rfl
@[simp] theorem State.setCpu_setCpu (c c2 : Cpu) : (s.setCpu c).setCpu c2 = s.setCpu c2 := rfl
@[simp] theorem State.setCpu_self : s.setCpu s.cpu = s := rfl

/-! ## setCell, setIo -/

@[simp] theorem State.setCell_cfg (k : Nat) (v : Byte) : (s.setCell k v).cfg = s.cfg := rfl
@[simp] theorem State.setCell_cpu (k : Nat) (v : Byte) : (s.setCell k v).cpu = s.cpu := rfl
@[simp] theorem State.setCell_iflag (k : Nat) (v : Byte) : (s.setCell k v).iflag = s.iflag := rfl
@[simp] theorem State.setCell_ie (k : Nat) (v : Byte) : (s.setCell k v).ie = s.ie := rfl
@[simp] theorem State.setCell_mem (k : Nat) (v : Byte) : (s.setCell k v).mem = s.mem.set k v := rfl
@[simp] theorem State.setCell_bootMapped (k : Nat) (v : Byte) : (s.setCell k v).bootMapped = s.bootMapped := rfl
@[simp] theorem State.setCell_mbc (k : Nat) (v : Byte) : (s.setCell k v).mbc = s.mbc := rfl
@[simp] theorem State.setCell_rtc (k : Nat) (v : Byte) : (s.setCell k v).rtc = s.rtc := rfl
@[simp] theorem State.setCell_timer (k : Nat) (v : Byte) : (s.setCell k v).timer = s.timer := rfl
@[simp] theorem State.setCell_dma (k : Nat) (v : Byte) : (s.setCell k v).dma = s.dma := rfl
@[simp] theorem State.setCell_hdma (k : Nat) (v : Byte) : (s.setCell k v).hdma = s.hdma := rfl
@[simp] theorem State.setCell_joy (k : Nat) (v : Byte) : (s.setCell k v).joy = s.joy := rfl
@[simp] theorem State.setCell_video (k : Nat) (v : Byte) : (s.setCell k v).video = s.video := rfl
@[simp] theorem State.setCell_audio (k : Nat) (v : Byte) : (s.setCell k v).audio = s.audio := rfl
@[simp] theorem State.setCell_session (k : Nat) (v : Byte) : (s.setCell k v).session = s.session := rfl
@[simp] theorem State.setIo_cfg (r : IoReg) (v : Byte) : (s.setIo r v).cfg = s.cfg := rfl
@[simp] theorem State.setIo_cpu (r : IoReg) (v : Byte) : (s.setIo r v).cpu = s.cpu := rfl
@[simp] theorem State.setIo_iflag (r : IoReg) (v : Byte) : (s.setIo r v).iflag = s.iflag := rfl
@[simp] theorem State.setIo_ie (r : IoReg) (v : Byte) : (s.setIo r v).ie = s.ie := rfl
@[simp] theorem State.setIo_mem (r : IoReg) (v : Byte) : (s.setIo r v).mem = s.mem.set (ioKey r) v := rfl
@[simp] theorem State.setIo_bootMapped (r : IoReg) (v : Byte) : (s.setIo r v).bootMapped = s.bootMapped := rfl
@[simp] theorem State.setIo_mbc (r : IoReg) (v : Byte) : (s.setIo r v).mbc = s.mbc := rfl
@[simp] theorem State.setIo_rtc (r : IoReg) (v : Byte) : (s.setIo r v).rtc = s.rtc := rfl
@[simp] theorem State.setIo_timer (r : IoReg) (v : Byte) : (s.setIo r v).timer = s.timer := rfl
@[simp] theorem State.setIo_dma (r : IoReg) (v : Byte) : (s.setIo r v).dma = s.dma := rfl
@[simp] theorem State.setIo_hdma (r : IoReg) (v : Byte) : (s.setIo r v).hdma = s.hdma := rfl
@[simp] theorem State.setIo_joy (r : IoReg) (v : Byte) : (s.setIo r v).joy = s.joy := rfl
@[simp] theorem State.setIo_video (r : IoReg) (v : Byte) : (s.setIo r v).video = s.video := rfl
@[simp] theorem State.setIo_audio (r : IoReg) (v : Byte) : (s.setIo r v).audio = s.audio := rfl
@[simp] theorem State.setIo_session (r : IoReg) (v : Byte) : (s.setIo r v).session = s.session := rfl

/-! ## request, requestIf -/

@[simp] theorem State.request_cfg (q : Irq) : (s.request q).cfg = s.cfg := rfl
@[simp] theorem State.request_cpu (q : Irq) : (s.request q).cpu = s.cpu := rfl
@[simp] theorem State.request_iflag (q : Irq) : (s.request q).iflag = s.iflag ||| q.mask := rfl
@[simp] theorem State.request_ie (q : Irq) : (s.request q).ie = s.ie := rfl
@[simp] theorem State.request_mem (q : Irq) : (s.request q).mem = s.mem := rfl
@[simp] theorem State.request_bootMapped (q : Irq) : (s.request q).bootMapped = s.bootMapped := rfl
@[simp] theorem State.request_mbc (q : Irq) : (s.request q).mbc = s.mbc := rfl
@[simp] theorem State.request_rtc (q : Irq) : (s.request q).rtc = s.rtc := rfl
@[simp] theorem State.request_timer (q : Irq) : (s.request q).timer = s.timer := rfl
@[simp] theorem State.request_dma (q : Irq) : (s.request q).dma = s.dma := rfl
@[simp] theorem State.request_hdma (q : Irq) : (s.request q).hdma = s.hdma := rfl
@[simp] theorem State.request_joy (q : Irq) : (s.request q).joy = s.joy := rfl
@[simp] theorem State.request_video (q : Irq) : (s.request q).video = s.video := rfl
@[simp] theorem State.request_audio (q : Irq) : (s.request q).audio = s.audio := rfl
@[simp] theorem State.request_session (q : Irq) : (s.request q).session = s.session := rfl
@[simp] theorem State.requestIf_cfg (b : Bool) (q : Irq) : (s.requestIf b q).cfg = s.cfg := by cases b <;> rfl
@[simp] theorem State.requestIf_cpu (b : Bool) (q : Irq) : (s.requestIf b q).cpu = s.cpu := by cases b <;> rfl
@[simp] theorem State.requestIf_iflag (b : Bool) (q : Irq) : (s.requestIf b q).iflag = if b then s.iflag ||| q.mask else s.iflag := by cases b <;> rfl
@[simp] theorem State.requestIf_ie (b : Bool) (q : Irq) : (s.requestIf b q).ie = s.ie := by cases b <;> rfl
@[simp] theorem State.requestIf_mem (b : Bool) (q : Irq) : (s.requestIf b q).mem = s.mem := by cases b <;> rfl
@[simp] theorem State.requestIf_bootMapped (b : Bool) (q : Irq) : (s.requestIf b q).bootMapped = s.bootMapped := by cases b <;> rfl
@[simp] theorem State.requestIf_mbc (b : Bool) (q : Irq) : (s.requestIf b q).mbc = s.mbc := by cases b <;> rfl
@[simp] theorem State.requestIf_rtc (b : Bool) (q : Irq) : (s.requestIf b q).rtc = s.rtc := by cases b <;> rfl
@[simp] theorem State.requestIf_timer (b : Bool) (q : Irq) : (s.requestIf b q).timer = s.timer := by cases b <;> rfl
@[simp] theorem State.requestIf_dma (b : Bool) (q : Irq) : (s.requestIf b q).dma = s.dma := by cases b <;> rfl
@[simp] theorem State.requestIf_hdma (b : Bool) (q : Irq) : (s.requestIf b q).hdma = s.hdma := by cases b <;> rfl
@[simp] theorem State.requestIf_joy (b : Bool) (q : Irq) : (s.requestIf b q).joy = s.joy := by cases b <;> rfl
@[simp] theorem State.requestIf_video (b : Bool) (q : Irq) : (s.requestIf b q).video = s.video := by cases b <;> rfl
@[simp] theorem State.requestIf_audio (b : Bool) (q : Irq) : (s.requestIf b q).audio = s.audio := by cases b <;> rfl
@[simp] theorem State.requestIf_session (b : Bool) (q : Irq) : (s.requestIf b q).session = s.session := by cases b <;> rfl

/-! ## Register writes touch the engine only -/

@[simp] theorem State.setReg_cfg (r : Reg8) (v : Byte) : (s.setReg r v).cfg = s.cfg := by cases r <;> rfl
@[simp] theorem State.setReg_iflag (r : Reg8) (v : Byte) : (s.setReg r v).iflag = s.iflag := by cases r <;> rfl
@[simp] theorem State.setReg_ie (r : Reg8) (v : Byte) : (s.setReg r v).ie = s.ie := by cases r <;> rfl
@[simp] theorem State.setReg_mem (r : Reg8) (v : Byte) : (s.setReg r v).mem = s.mem := by cases r <;> rfl
@[simp] theorem State.setReg_bootMapped (r : Reg8) (v : Byte) : (s.setReg r v).bootMapped = s.bootMapped := by cases r <;> rfl
@[simp] theorem State.setReg_mbc (r : Reg8) (v : Byte) : (s.setReg r v).mbc = s.mbc := by cases r <;> rfl
@[simp] theorem State.setReg_rtc (r : Reg8) (v : Byte) : (s.setReg r v).rtc = s.rtc := by cases r <;> rfl
@[simp] theorem State.setReg_timer (r : Reg8) (v : Byte) : (s.setReg r v).timer = s.timer := by cases r <;> rfl
@[simp] theorem State.setReg_dma (r : Reg8) (v : Byte) : (s.setReg r v).dma = s.dma := by cases r <;> rfl
@[simp] theorem State.setReg_hdma (r : Reg8) (v : Byte) : (s.setReg r v).hdma = s.hdma := by cases r <;> rfl
@[simp] theorem State.setReg_joy (r : Reg8) (v : Byte) : (s.setReg r v).joy = s.joy := by cases r <;> rfl
@[simp] theorem State.setReg_video (r : Reg8) (v : Byte) : (s.setReg r v).video = s.video := by cases r <;> rfl
@[simp] theorem State.setReg_audio (r : Reg8) (v : Byte) : (s.setReg r v).audio = s.audio := by cases r <;> rfl
@[simp] theorem State.setReg_session (r : Reg8) (v : Byte) : (s.setReg r v).session = s.session := by cases r <;> rfl
@[simp] theorem State.setF_cfg (x : Flags) : (s.setF x).cfg = s.cfg := rfl
@[simp] theorem State.setF_iflag (x : Flags) : (s.setF x).iflag = s.iflag := rfl
@[simp] theorem State.setF_ie (x : Flags) : (s.setF x).ie = s.ie := rfl
@[simp] theorem State.setF_mem (x : Flags) : (s.setF x).mem = s.mem := rfl
@[simp] theorem State.setF_bootMapped (x : Flags) : (s.setF x).bootMapped = s.bootMapped := rfl
@[simp] theorem State.setF_mbc (x : Flags) : (s.setF x).mbc = s.mbc := rfl
@[simp] theorem State.setF_rtc (x : Flags) : (s.setF x).rtc = s.rtc := rfl
@[simp] theorem State.setF_timer (x : Flags) : (s.setF x).timer = s.timer := rfl
@[simp] theorem State.setF_dma (x : Flags) : (s.setF x).dma = s.dma := rfl
@[simp] theorem State.setF_hdma (x : Flags) : (s.setF x).hdma = s.hdma := rfl
@[simp] theorem State.setF_joy (x : Flags) : (s.setF x).joy = s.joy := rfl
@[simp] theorem State.setF_video (x : Flags) : (s.setF x).video = s.video := rfl
@[simp] theorem State.setF_audio (x : Flags) : (s.setF x).audio = s.audio := rfl
@[simp] theorem State.setF_session (x : Flags) : (s.setF x).session = s.session := rfl
@[simp] theorem State.setSp_cfg (v : Word) : (s.setSp v).cfg = s.cfg := rfl
@[simp] theorem State.setSp_iflag (v : Word) : (s.setSp v).iflag = s.iflag := rfl
@[simp] theorem State.setSp_ie (v : Word) : (s.setSp v).ie = s.ie := rfl
@[simp] theorem State.setSp_mem (v : Word) : (s.setSp v).mem = s.mem := rfl
@[simp] theorem State.setSp_bootMapped (v : Word) : (s.setSp v).bootMapped = s.bootMapped := rfl
@[simp] theorem State.setSp_mbc (v : Word) : (s.setSp v).mbc = s.mbc := rfl
@[simp] theorem State.setSp_rtc (v : Word) : (s.setSp v).rtc = s.rtc := rfl
@[simp] theorem State.setSp_timer (v : Word) : (s.setSp v).timer = s.timer := rfl
@[simp] theorem State.setSp_dma (v : Word) : (s.setSp v).dma = s.dma := rfl
@[simp] theorem State.setSp_hdma (v : Word) : (s.setSp v).hdma = s.hdma := rfl
@[simp] theorem State.setSp_joy (v : Word) : (s.setSp v).joy = s.joy := rfl
@[simp] theorem State.setSp_video (v : Word) : (s.setSp v).video = s.video := rfl
@[simp] theorem State.setSp_audio (v : Word) : (s.setSp v).audio = s.audio := rfl
@[simp] theorem State.setSp_session (v : Word) : (s.setSp v).session = s.session := rfl
@[simp] theorem State.setPc_cfg (v : Word) : (s.setPc v).cfg = s.cfg := rfl
@[simp] theorem State.setPc_iflag (v : Word) : (s.setPc v).iflag = s.iflag := rfl
@[simp] theorem State.setPc_ie (v : Word) : (s.setPc v).ie = s.ie := rfl
@[simp] theorem State.setPc_mem (v : Word) : (s.setPc v).mem = s.mem := rfl
@[simp] theorem State.setPc_bootMapped (v : Word) : (s.setPc v).bootMapped = s.bootMapped := rfl
@[simp] theorem State.setPc_mbc (v : Word) : (s.setPc v).mbc = s.mbc := rfl
@[simp] theorem State.setPc_rtc (v : Word) : (s.setPc v).rtc = s.rtc := rfl
@[simp] theorem State.setPc_timer (v : Word) : (s.setPc v).timer = s.timer := rfl
@[simp] theorem State.setPc_dma (v : Word) : (s.setPc v).dma = s.dma := rfl
@[simp] theorem State.setPc_hdma (v : Word) : (s.setPc v).hdma = s.hdma := rfl
@[simp] theorem State.setPc_joy (v : Word) : (s.setPc v).joy = s.joy := rfl
@[simp] theorem State.setPc_video (v : Word) : (s.setPc v).video = s.video := rfl
@[simp] theorem State.setPc_audio (v : Word) : (s.setPc v).audio = s.audio := rfl
@[simp] theorem State.setPc_session (v : Word) : (s.setPc v).session = s.session := rfl
@[simp] theorem State.setHl_cfg (v : Word) : (s.setHl v).cfg = s.cfg := rfl
@[simp] theorem State.setHl_iflag (v : Word) : (s.setHl v).iflag = s.iflag := rfl
@[simp] theorem State.setHl_ie (v : Word) : (s.setHl v).ie = s.ie := rfl
@[simp] theorem State.setHl_mem (v : Word) : (s.setHl v).mem = s.mem := rfl
@[simp] theorem State.setHl_bootMapped (v : Word) : (s.setHl v).bootMapped = s.bootMapped := rfl
@[simp] theorem State.setHl_mbc (v : Word) : (s.setHl v).mbc = s.mbc := rfl
@[simp] theorem State.setHl_rtc (v : Word) : (s.setHl v).rtc = s.rtc := rfl
@[simp] theorem State.setHl_timer (v : Word) : (s.setHl v).timer = s.timer := rfl
@[simp] theorem State.setHl_dma (v : Word) : (s.setHl v).dma = s.dma := rfl
@[simp] theorem State.setHl_hdma (v : Word) : (s.setHl v).hdma = s.hdma := rfl
@[simp] theorem State.setHl_joy (v : Word) : (s.setHl v).joy = s.joy := rfl
@[simp] theorem State.setHl_video (v : Word) : (s.setHl v).video = s.video := rfl
@[simp] theorem State.setHl_audio (v : Word) : (s.setHl v).audio = s.audio := rfl
@[simp] theorem State.setHl_session (v : Word) : (s.setHl v).session = s.session := rfl
@[simp] theorem State.setPair_cfg (p : Pair) (v : Word) : (s.setPair p v).cfg = s.cfg := by cases p <;> rfl
@[simp] theorem State.setPair_iflag (p : Pair) (v : Word) : (s.setPair p v).iflag = s.iflag := by cases p <;> rfl
@[simp] theorem State.setPair_ie (p : Pair) (v : Word) : (s.setPair p v).ie = s.ie := by cases p <;> rfl
@[simp] theorem State.setPair_mem (p : Pair) (v : Word) : (s.setPair p v).mem = s.mem := by cases p <;> rfl
@[simp] theorem State.setPair_bootMapped (p : Pair) (v : Word) : (s.setPair p v).bootMapped = s.bootMapped := by cases p <;> rfl
@[simp] theorem State.setPair_mbc (p : Pair) (v : Word) : (s.setPair p v).mbc = s.mbc := by cases p <;> rfl
@[simp] theorem State.setPair_rtc (p : Pair) (v : Word) : (s.setPair p v).rtc = s.rtc := by cases p <;> rfl
@[simp] theorem State.setPair_timer (p : Pair) (v : Word) : (s.setPair p v).timer = s.timer := by cases p <;> rfl
@[simp] theorem State.setPair_dma (p : Pair) (v : Word) : (s.setPair p v).dma = s.dma := by cases p <;> rfl
@[simp] theorem State.setPair_hdma (p : Pair) (v : Word) : (s.setPair p v).hdma = s.hdma := by cases p <;> rfl
@[simp] theorem State.setPair_joy (p : Pair) (v : Word) : (s.setPair p v).joy = s.joy := by cases p <;> rfl
@[simp] theorem State.setPair_video (p : Pair) (v : Word) : (s.setPair p v).video = s.video := by cases p <;> rfl
@[simp] theorem State.setPair_audio (p : Pair) (v : Word) : (s.setPair p v).audio = s.audio := by cases p <;> rfl
@[simp] theorem State.setPair_session (p : Pair) (v : Word) : (s.setPair p v).session = s.session := by cases p <;> rfl
@[simp] theorem State.setStackPair_cfg (q : StackPair) (v : Word) : (s.setStackPair q v).cfg = s.cfg := by cases q <;> rfl
@[simp] theorem State.setStackPair_iflag (q : StackPair) (v : Word) : (s.setStackPair q v).iflag = s.iflag := by cases q <;> rfl
@[simp] theorem State.setStackPair_ie (q : StackPair) (v : Word) : (s.setStackPair q v).ie = s.ie := by cases q <;> rfl
@[simp] theorem State.setStackPair_mem (q : StackPair) (v : Word) : (s.setStackPair q v).mem = s.mem := by cases q <;> rfl
@[simp] theorem State.setStackPair_bootMapped (q : StackPair) (v : Word) : (s.setStackPair q v).bootMapped = s.bootMapped := by cases q <;> rfl
@[simp] theorem State.setStackPair_mbc (q : StackPair) (v : Word) : (s.setStackPair q v).mbc = s.mbc := by cases q <;> rfl
@[simp] theorem State.setStackPair_rtc (q : StackPair) (v : Word) : (s.setStackPair q v).rtc = s.rtc := by cases q <;> rfl
@[simp] theorem State.setStackPair_timer (q : StackPair) (v : Word) : (s.setStackPair q v).timer = s.timer := by cases q <;> rfl
@[simp] theorem State.setStackPair_dma (q : StackPair) (v : Word) : (s.setStackPair q v).dma = s.dma := by cases q <;> rfl
@[simp] theorem State.setStackPair_hdma (q : StackPair) (v : Word) : (s.setStackPair q v).hdma = s.hdma := by cases q <;> rfl
@[simp] theorem State.setStackPair_joy (q : StackPair) (v : Word) : (s.setStackPair q v).joy = s.joy := by cases q <;> rfl
@[simp] theorem State.setStackPair_video (q : StackPair) (v : Word) : (s.setStackPair q v).video = s.video := by cases q <;> rfl
@[simp] theorem State.setStackPair_audio (q : StackPair) (v : Word) : (s.setStackPair q v).audio = s.audio := by cases q <;> rfl
@[simp] theorem State.setStackPair_session (q : StackPair) (v : Word) : (s.setStackPair q v).session = s.session := by cases q <;> rfl

/-! ## Fields of the engine after a register write -/

@[simp] theorem State.setReg_cpu_f (r : Reg8) (v : Byte) : (s.setReg r v).cpu.f = s.cpu.f := by cases r <;> rfl
@[simp] theorem State.setReg_cpu_sp (r : Reg8) (v : Byte) : (s.setReg r v).cpu.sp = s.cpu.sp := by cases r <;> rfl
@[simp] theorem State.setReg_cpu_pc (r : Reg8) (v : Byte) : (s.setReg r v).cpu.pc = s.cpu.pc := by cases r <;> rfl
@[simp] theorem State.setReg_cpu_ime (r : Reg8) (v : Byte) : (s.setReg r v).cpu.ime = s.cpu.ime := by cases r <;> rfl
@[simp] theorem State.setReg_cpu_eiDelay (r : Reg8) (v : Byte) : (s.setReg r v).cpu.eiDelay = s.cpu.eiDelay := by cases r <;> rfl
@[simp] theorem State.setReg_cpu_halted (r : Reg8) (v : Byte) : (s.setReg r v).cpu.halted = s.cpu.halted := by cases r <;> rfl
@[simp] theorem State.setReg_cpu_stopped (r : Reg8) (v : Byte) : (s.setReg r v).cpu.stopped = s.cpu.stopped := by cases r <;> rfl
@[simp] theorem State.setReg_cpu_cur (r : Reg8) (v : Byte) : (s.setReg r v).cpu.cur = s.cpu.cur := by cases r <;> rfl
@[simp] theorem State.setReg_cpu_ustep (r : Reg8) (v : Byte) : (s.setReg r v).cpu.ustep = s.cpu.ustep := by cases r <;> rfl
@[simp] theorem State.setReg_cpu_dur (r : Reg8) (v : Byte) : (s.setReg r v).cpu.dur = s.cpu.dur := by cases r <;> rfl
@[simp] theorem State.setReg_cpu_nextInt (r : Reg8) (v : Byte) : (s.setReg r v).cpu.nextInt = s.cpu.nextInt := by cases r <;> rfl
@[simp] theorem State.setF_cpu_a (x : Flags) : (s.setF x).cpu.a = s.cpu.a := rfl
@[simp] theorem State.setF_cpu_b (x : Flags) : (s.setF x).cpu.b = s.cpu.b := rfl
@[simp] theorem State.setF_cpu_c (x : Flags) : (s.setF x).cpu.c = s.cpu.c := rfl
@[simp] theorem State.setF_cpu_d (x : Flags) : (s.setF x).cpu.d = s.cpu.d := rfl
@[simp] theorem State.setF_cpu_e (x : Flags) : (s.setF x).cpu.e = s.cpu.e := rfl
@[simp] theorem State.setF_cpu_h (x : Flags) : (s.setF x).cpu.h = s.cpu.h := rfl
@[simp] theorem State.setF_cpu_l (x : Flags) : (s.setF x).cpu.l = s.cpu.l := rfl
@[simp] theorem State.setF_cpu_sp (x : Flags) : (s.setF x).cpu.sp = s.cpu.sp := rfl
@[simp] theorem State.setF_cpu_pc (x : Flags) : (s.setF x).cpu.pc = s.cpu.pc := rfl
@[simp] theorem State.setF_cpu_ime (x : Flags) : (s.setF x).cpu.ime = s.cpu.ime := rfl
@[simp] theorem State.setF_cpu_eiDelay (x : Flags) : (s.setF x).cpu.eiDelay = s.cpu.eiDelay := rfl
@[simp] theorem State.setF_cpu_halted (x : Flags) : (s.setF x).cpu.halted = s.cpu.halted := rfl
@[simp] theorem State.setF_cpu_stopped (x : Flags) : (s.setF x).cpu.stopped = s.cpu.stopped := rfl
@[simp] theorem State.setF_cpu_cur (x : Flags) : (s.setF x).cpu.cur = s.cpu.cur := rfl
@[simp] theorem State.setF_cpu_ustep (x : Flags) : (s.setF x).cpu.ustep = s.cpu.ustep := rfl
@[simp] theorem State.setF_cpu_dur (x : Flags) : (s.setF x).cpu.dur = s.cpu.dur := rfl
@[simp] theorem State.setF_cpu_nextInt (x : Flags) : (s.setF x).cpu.nextInt = s.cpu.nextInt := rfl
@[simp] theorem State.setSp_cpu_a (v : Word) : (s.setSp v).cpu.a = s.cpu.a := rfl
@[simp] theorem State.setSp_cpu_f (v : Word) : (s.setSp v).cpu.f = s.cpu.f := rfl
@[simp] theorem State.setSp_cpu_b (v : Word) : (s.setSp v).cpu.b = s.cpu.b := rfl
@[simp] theorem State.setSp_cpu_c (v : Word) : (s.setSp v).cpu.c = s.cpu.c := rfl
@[simp] theorem State.setSp_cpu_d (v : Word) : (s.setSp v).cpu.d = s.cpu.d := rfl
@[simp] theorem State.setSp_cpu_e (v : Word) : (s.setSp v).cpu.e = s.cpu.e := rfl
@[simp] theorem State.setSp_cpu_h (v : Word) : (s.setSp v).cpu.h = s.cpu.h := rfl
@[simp] theorem State.setSp_cpu_l (v : Word) : (s.setSp v).cpu.l = s.cpu.l := rfl
@[simp] theorem State.setSp_cpu_pc (v : Word) : (s.setSp v).cpu.pc = s.cpu.pc := rfl
@[simp] theorem State.setSp_cpu_ime (v : Word) : (s.setSp v).cpu.ime = s.cpu.ime := rfl
@[simp] theorem State.setSp_cpu_eiDelay (v : Word) : (s.setSp v).cpu.eiDelay = s.cpu.eiDelay := rfl
@[simp] theorem State.setSp_cpu_halted (v : Word) : (s.setSp v).cpu.halted = s.cpu.halted := rfl
@[simp] theorem State.setSp_cpu_stopped (v : Word) : (s.setSp v).cpu.stopped = s.cpu.stopped := rfl
@[simp] theorem State.setSp_cpu_cur (v : Word) : (s.setSp v).cpu.cur = s.cpu.cur := rfl
@[simp] theorem State.setSp_cpu_ustep (v : Word) : (s.setSp v).cpu.ustep = s.cpu.ustep := rfl
@[simp] theorem State.setSp_cpu_dur (v : Word) : (s.setSp v).cpu.dur = s.cpu.dur := rfl
@[simp] theorem State.setSp_cpu_nextInt (v : Word) : (s.setSp v).cpu.nextInt = s.cpu.nextInt := rfl
@[simp] theorem State.setPc_cpu_a (v : Word) : (s.setPc v).cpu.a = s.cpu.a := rfl
@[simp] theorem State.setPc_cpu_f (v : Word) : (s.setPc v).cpu.f = s.cpu.f := rfl
@[simp] theorem State.setPc_cpu_b (v : Word) : (s.setPc v).cpu.b = s.cpu.b := rfl
@[simp] theorem State.setPc_cpu_c (v : Word) : (s.setPc v).cpu.c = s.cpu.c := rfl
@[simp] theorem State.setPc_cpu_d (v : Word) : (s.setPc v).cpu.d = s.cpu.d := rfl
@[simp] theorem State.setPc_cpu_e (v : Word) : (s.setPc v).cpu.e = s.cpu.e := rfl
@[simp] theorem State.setPc_cpu_h (v : Word) : (s.setPc v).cpu.h = s.cpu.h := rfl
@[simp] theorem State.setPc_cpu_l (v : Word) : (s.setPc v).cpu.l = s.cpu.l := rfl
@[simp] theorem State.setPc_cpu_sp (v : Word) : (s.setPc v).cpu.sp = s.cpu.sp := rfl
@[simp] theorem State.setPc_cpu_ime (v : Word) : (s.setPc v).cpu.ime = s.cpu.ime := rfl
@[simp] theorem State.setPc_cpu_eiDelay (v : Word) : (s.setPc v).cpu.eiDelay = s.cpu.eiDelay := rfl
@[simp] theorem State.setPc_cpu_halted (v : Word) : (s.setPc v).cpu.halted = s.cpu.halted := rfl
@[simp] theorem State.setPc_cpu_stopped (v : Word) : (s.setPc v).cpu.stopped = s.cpu.stopped := rfl
@[simp] theorem State.setPc_cpu_cur (v : Word) : (s.setPc v).cpu.cur = s.cpu.cur := rfl
@[simp] theorem State.setPc_cpu_ustep (v : Word) : (s.setPc v).cpu.ustep = s.cpu.ustep := rfl
@[simp] theorem State.setPc_cpu_dur (v : Word) : (s.setPc v).cpu.dur = s.cpu.dur := rfl
@[simp] theorem State.setPc_cpu_nextInt (v : Word) : (s.setPc v).cpu.nextInt = s.cpu.nextInt := rfl
@[simp] theorem State.setHl_cpu_a (v : Word) : (s.setHl v).cpu.a = s.cpu.a := rfl
@[simp] theorem State.setHl_cpu_f (v : Word) : (s.setHl v).cpu.f = s.cpu.f := rfl
@[simp] theorem State.setHl_cpu_b (v : Word) : (s.setHl v).cpu.b = s.cpu.b := rfl
@[simp] theorem State.setHl_cpu_c (v : Word) : (s.setHl v).cpu.c = s.cpu.c := rfl
@[simp] theorem State.setHl_cpu_d (v : Word) : (s.setHl v).cpu.d = s.cpu.d := rfl
@[simp] theorem State.setHl_cpu_e (v : Word) : (s.setHl v).cpu.e = s.cpu.e := rfl
@[simp] theorem State.setHl_cpu_sp (v : Word) : (s.setHl v).cpu.sp = s.cpu.sp := rfl
@[simp] theorem State.setHl_cpu_pc (v : Word) : (s.setHl v).cpu.pc = s.cpu.pc := rfl
@[simp] theorem State.setHl_cpu_ime (v : Word) : (s.setHl v).cpu.ime = s.cpu.ime := rfl
@[simp] theorem State.setHl_cpu_eiDelay (v : Word) : (s.setHl v).cpu.eiDelay = s.cpu.eiDelay := rfl
@[simp] theorem State.setHl_cpu_halted (v : Word) : (s.setHl v).cpu.halted = s.cpu.halted := rfl
@[simp] theorem State.setHl_cpu_stopped (v : Word) : (s.setHl v).cpu.stopped = s.cpu.stopped := rfl
@[simp] theorem State.setHl_cpu_cur (v : Word) : (s.setHl v).cpu.cur = s.cpu.cur := rfl
@[simp] theorem State.setHl_cpu_ustep (v : Word) : (s.setHl v).cpu.ustep = s.cpu.ustep := rfl
@[simp] theorem State.setHl_cpu_dur (v : Word) : (s.setHl v).cpu.dur = s.cpu.dur := rfl
@[simp] theorem State.setHl_cpu_nextInt (v : Word) : (s.setHl v).cpu.nextInt = s.cpu.nextInt := rfl
@[simp] theorem State.setPair_cpu_a (p : Pair) (v : Word) : (s.setPair p v).cpu.a = s.cpu.a := by cases p <;> rfl
@[simp] theorem State.setPair_cpu_f (p : Pair) (v : Word) : (s.setPair p v).cpu.f = s.cpu.f := by cases p <;> rfl
@[simp] theorem State.setPair_cpu_pc (p : Pair) (v : Word) : (s.setPair p v).cpu.pc = s.cpu.pc := by cases p <;> rfl
@[simp] theorem State.setPair_cpu_ime (p : Pair) (v : Word) : (s.setPair p v).cpu.ime = s.cpu.ime := by cases p <;> rfl
@[simp] theorem State.setPair_cpu_eiDelay (p : Pair) (v : Word) : (s.setPair p v).cpu.eiDelay = s.cpu.eiDelay := by cases p <;> rfl
@[simp] theorem State.setPair_cpu_halted (p : Pair) (v : Word) : (s.setPair p v).cpu.halted = s.cpu.halted := by cases p <;> rfl
@[simp] theorem State.setPair_cpu_stopped (p : Pair) (v : Word) : (s.setPair p v).cpu.stopped = s.cpu.stopped := by cases p <;> rfl
@[simp] theorem State.setPair_cpu_cur (p : Pair) (v : Word) : (s.setPair p v).cpu.cur = s.cpu.cur := by cases p <;> rfl
@[simp] theorem State.setPair_cpu_ustep (p : Pair) (v : Word) : (s.setPair p v).cpu.ustep = s.cpu.ustep := by cases p <;> rfl
@[simp] theorem State.setPair_cpu_dur (p : Pair) (v : Word) : (s.setPair p v).cpu.dur = s.cpu.dur := by cases p <;> rfl
@[simp] theorem State.setPair_cpu_nextInt (p : Pair) (v : Word) : (s.setPair p v).cpu.nextInt = s.cpu.nextInt := by cases p <;> rfl
@[simp] theorem State.setStackPair_cpu_sp (q : StackPair) (v : Word) : (s.setStackPair q v).cpu.sp = s.cpu.sp := by cases q <;> rfl
@[simp] theorem State.setStackPair_cpu_pc (q : StackPair) (v : Word) : (s.setStackPair q v).cpu.pc = s.cpu.pc := by cases q <;> rfl
@[simp] theorem State.setStackPair_cpu_ime (q : StackPair) (v : Word) : (s.setStackPair q v).cpu.ime = s.cpu.ime := by cases q <;> rfl
@[simp] theorem State.setStackPair_cpu_eiDelay (q : StackPair) (v : Word) : (s.setStackPair q v).cpu.eiDelay = s.cpu.eiDelay := by cases q <;> rfl
@[simp] theorem State.setStackPair_cpu_halted (q : StackPair) (v : Word) : (s.setStackPair q v).cpu.halted = s.cpu.halted := by cases q <;> rfl
@[simp] theorem State.setStackPair_cpu_stopped (q : StackPair) (v : Word) : (s.setStackPair q v).cpu.stopped = s.cpu.stopped := by cases q <;> rfl
@[simp] theorem State.setStackPair_cpu_cur (q : StackPair) (v : Word) : (s.setStackPair q v).cpu.cur = s.cpu.cur := by cases q <;> rfl
@[simp] theorem State.setStackPair_cpu_ustep (q : StackPair) (v : Word) : (s.setStackPair q v).cpu.ustep = s.cpu.ustep := by cases q <;> rfl
@[simp] theorem State.setStackPair_cpu_dur (q : StackPair) (v : Word) : (s.setStackPair q v).cpu.dur = s.cpu.dur := by cases q <;> rfl
@[simp] theorem State.setStackPair_cpu_nextInt (q : StackPair) (v : Word) : (s.setStackPair q v).cpu.nextInt = s.cpu.nextInt := by cases q <;> rfl
@[simp] theorem State.setF_cpu_f (x : Flags) : (s.setF x).cpu.f = x := rfl
@[simp] theorem State.setSp_cpu_sp (v : Word) : (s.setSp v).cpu.sp = v := rfl
@[simp] theorem State.setPc_cpu_pc (v : Word) : (s.setPc v).cpu.pc = v := rfl
@[simp] theorem State.setHl_cpu_h (v : Word) : (s.setHl v).cpu.h = hiByte v := rfl
@[simp] theorem State.setHl_cpu_l (v : Word) : (s.setHl v).cpu.l = loByte v := rfl

/-! ## Registers and pairs (10_state.md rule R21) -/

/-- A register reads back what was written to it, and no other register changes. -/
theorem State.reg_setReg (r r' : Reg8) (v : Byte) : (s.setReg r v).reg r' = if r' = r then v else s.reg r' := by
  cases r <;> cases r' <;> rfl

@[simp] theorem State.reg_setF (x : Flags) (r : Reg8) : (s.setF x).reg r = s.reg r := by cases r <;> rfl
@[simp] theorem State.reg_setSp (v : Word) (r : Reg8) : (s.setSp v).reg r = s.reg r := by cases r <;> rfl
@[simp] theorem State.reg_setPc (v : Word) (r : Reg8) : (s.setPc v).reg r = s.reg r := by cases r <;> rfl
@[simp] theorem State.reg_setCell (k : Nat) (v : Byte) (r : Reg8) : (s.setCell k v).reg r = s.reg r := by
  cases r <;> rfl

theorem toNat_join16 (h l : Byte) : (join16 h l).toNat = h.toNat * 256 + l.toNat := by
  have := l.isLt
  simp only [join16, BitVec.toNat_append]
  rw [← Nat.shiftLeft_add_eq_or_of_lt l.isLt, Nat.shiftLeft_eq]
theorem toNat_hiByte (v : Word) : (hiByte v).toNat = v.toNat / 256 := by
  have := v.isLt
  simp only [hiByte, BitVec.extractLsb'_toNat, Nat.shiftRight_eq_div_pow]; omega
theorem toNat_loByte (v : Word) : (loByte v).toNat = v.toNat % 256 := by
  simp [loByte, BitVec.extractLsb'_toNat]
@[simp] theorem hiByte_join16 (h l : Byte) : hiByte (join16 h l) = h := by
  have := l.isLt; have := h.isLt
  apply BitVec.eq_of_toNat_eq; rw [toNat_hiByte, toNat_join16]; omega
@[simp] theorem loByte_join16 (h l : Byte) : loByte (join16 h l) = l := by
  have := l.isLt; have := h.isLt
  apply BitVec.eq_of_toNat_eq; rw [toNat_loByte, toNat_join16]; omega
@[simp] theorem join16_bytes (v : Word) : join16 (hiByte v) (loByte v) = v := by
  apply BitVec.eq_of_toNat_eq; rw [toNat_join16, toNat_hiByte, toNat_loByte]; omega

/-- A pair reads back what was written to it. -/
theorem State.pair_setPair (p : Pair) (v : Word) : (s.setPair p v).pair p = v := by
  cases p <;> simp [State.setPair, State.pair, State.bc, State.de, State.hl, State.setHl, State.setSp]

end Sys2Proof.Machine
end

