-- ==== Sys2Proof/Laws/Bus.lean ====
section
/-! SUPPORT. What a bus operation, a device step or a DMA engine leaves alone, said once for each function: the engine, the launch
parameters, the session, and the canonical form of memory. -/

namespace Sys2Proof.Machine

/-- `t` comes from `s` without touching the engine, the parameters, the session or the canonical form of memory. -/
structure Outside (s t : State) : Prop where
  cpu : t.cpu = s.cpu
  cfg : t.cfg = s.cfg
  session : t.session = s.session
  memWf : Memory.wf s.mem → Memory.wf t.mem

theorem Outside.refl (s : State) : Outside s s := ⟨rfl, rfl, rfl, id⟩

theorem Outside.trans {s t u : State} (h : Outside s t) (h' : Outside t u) : Outside s u :=
  ⟨h'.cpu.trans h.cpu, h'.cfg.trans h.cfg, h'.session.trans h.session, h'.memWf ∘ h.memWf⟩

/-- A change of the devices alone. -/
theorem Outside.devices {s t : State} (h1 : t.cpu = s.cpu) (h2 : t.cfg = s.cfg) (h3 : t.session = s.session)
    (h4 : t.mem = s.mem) : Outside s t := ⟨h1, h2, h3, by rw [h4]; exact id⟩

theorem setCell_outside (s : State) (k : Nat) (v : Byte) : Outside s (s.setCell k v) :=
  ⟨rfl, rfl, rfl, fun h => Memory.wf_set h k v⟩

theorem setIo_outside (s : State) (r : IoReg) (v : Byte) : Outside s (s.setIo r v) := setCell_outside s _ v

theorem requestIf_outside (s : State) (b : Bool) (q : Irq) : Outside s (s.requestIf b q) :=
  .devices (by simp) (by simp) (by simp) (by simp)

theorem request_outside (s : State) (q : Irq) : Outside s (s.request q) := .devices rfl rfl rfl rfl

theorem storeIo_outside (r : IoReg) (v : Byte) (s : State) : Outside s (storeIo r v s) := setIo_outside s r _

/-! ## Writes -/

theorem triggerIf_outside {f : State → State} (hf : ∀ s, Outside s (f s)) (v : Byte) (s : State) :
    Outside s (triggerIf v f s) := by
  unfold triggerIf; split
  · exact hf s
  · exact .refl s

theorem audio_outside (s : State) (x : Audio) : Outside s { s with audio := x } := .devices rfl rfl rfl rfl

theorem trigger1_outside (s : State) : Outside s (trigger1 s) := audio_outside s _
theorem trigger2_outside (s : State) : Outside s (trigger2 s) := audio_outside s _
theorem trigger3_outside (s : State) : Outside s (trigger3 s) := audio_outside s _
theorem trigger4_outside (s : State) : Outside s (trigger4 s) := audio_outside s _

theorem palWrite_outside (idx : IoReg) (key : Nat) (port : IoReg) (v : Byte) (s : State) :
    Outside s (palWrite idx key port v s) := (setCell_outside s _ _).trans (setIo_outside _ _ _)

theorem observe_outside (s : State) (a : Word) : Outside s (observe s a) := by
  unfold observe; split
  · exact .devices rfl rfl rfl rfl
  · exact .refl s

theorem hdmaCopy_outside (src dst : Word) (n k : Nat) (s : State) : Outside s (hdmaCopy src dst n k s) := by
  induction n generalizing k s with
  | zero => exact .refl s
  | succ n ih => exact ((observe_outside s _).trans (setCell_outside _ _ _)).trans (ih _ _)

theorem hdma_outside {s t : State} (h : Outside s t) (x : Hdma) : Outside s { t with hdma := x } :=
  ⟨h.cpu, h.cfg, h.session, h.memWf⟩

theorem generalDma_outside (v : Byte) (s : State) : Outside s (generalDma v s) :=
  hdma_outside (hdmaCopy_outside _ _ _ _ s) _

theorem hblankDma_outside (s : State) : Outside s (hblankDma s) := by
  unfold hblankDma; split
  · exact hdma_outside (hdmaCopy_outside _ _ 16 0 s) _
  · exact .refl s

theorem hdma5Write_outside (v : Byte) (s : State) : Outside s (hdma5Write v s) := by
  unfold hdma5Write; split
  · exact .devices rfl rfl rfl rfl
  · split
    · exact .devices rfl rfl rfl rfl
    · exact generalDma_outside v s

theorem ioWrite_outside (r : IoReg) (v : Byte) (s : State) : Outside s (ioWrite r v s) := by
  have hs := fun r => storeIo_outside r v s
  cases r
  case nr11 | nr21 | nr31 | nr41 => exact (hs _).trans (.devices rfl rfl rfl rfl)
  case nr14 => exact (hs _).trans (triggerIf_outside trigger1_outside v _)
  case nr24 => exact (hs _).trans (triggerIf_outside trigger2_outside v _)
  case nr34 => exact (hs _).trans (triggerIf_outside trigger3_outside v _)
  case nr44 => exact (hs _).trans (triggerIf_outside trigger4_outside v _)
  case p1 | div | intf | nr52 | hdma1 | hdma2 | hdma3 | hdma4 => exact .devices rfl rfl rfl rfl
  case ly => exact .refl s
  case stat => exact setIo_outside s _ _
  case dma => exact (setIo_outside s _ _).trans (.devices rfl rfl rfl rfl)
  case bank => exact (hs _).trans (.devices rfl rfl rfl rfl)
  case hdma5 => exact hdma5Write_outside v s
  case bcpd | ocpd => exact palWrite_outside _ _ _ _ s
  all_goals exact hs _

theorem mbcWrite_outside (n : Nat) (v : Byte) (s : State) : Outside s (mbcWrite n v s) := by
  unfold mbcWrite; split <;> exact .devices rfl rfl rfl rfl

theorem busWrite_outside (a : Word) (v : Byte) (s : State) : Outside s (busWrite a v s) := by
  unfold busWrite; split
  · exact mbcWrite_outside _ v s
  · exact setCell_outside s _ v
  · exact .devices rfl rfl rfl rfl
  · exact .refl s
  · exact ioWrite_outside _ v s
  · exact .devices rfl rfl rfl rfl
  · exact .refl s

theorem cpuWrite_outside (a : Word) (v : Byte) (s : State) : Outside s (cpuWrite a v s) := by
  unfold cpuWrite; split
  · exact .refl s
  · exact busWrite_outside a v s

theorem cpuObserve_outside (s : State) (a : Word) : Outside s (cpuObserve s a) := by
  unfold cpuObserve; split
  · exact .refl s
  · exact observe_outside s a

/-- A CPU read changes the clock's observation state at most. -/
theorem cpuObserve_eq (s : State) (a : Word) : cpuObserve s a = { s with rtc := (cpuObserve s a).rtc } := by
  unfold cpuObserve observe rtcObserve; split
  · rfl
  · split <;> rfl

/-! ## The bus step -/

theorem timerStep_outside (s : State) : Outside s (timerStep s) := by
  have h1 : Outside s (timerReload s) := by
    unfold timerReload; split
    · exact (setIo_outside s .tima (s.io .tma)).trans (.devices rfl rfl rfl rfl)
    · exact .refl s
  have h3 : ∀ u, Outside u (timerEdge u) := by
    intro u; unfold timerEdge; simp only
    split
    · refine Outside.trans (t := timerIncrement u) ?_ (.devices rfl rfl rfl rfl)
      unfold timerIncrement; split
      · exact (setIo_outside u .tima 0x00).trans (.devices rfl rfl rfl rfl)
      · exact setIo_outside u _ _
    · exact .devices rfl rfl rfl rfl
  have h2 : ∀ u, Outside u (divStep u) := fun u => .devices rfl rfl rfl rfl
  exact (h1.trans (h2 _)).trans (h3 _)

theorem oamDmaStep_outside (s : State) : Outside s (oamDmaStep s) := by
  unfold oamDmaStep; split
  · exact ((observe_outside s _).trans (setCell_outside _ _ _)).trans (.devices rfl rfl rfl rfl)
  · exact .refl s

theorem joypadStep_outside (s : State) : Outside s (joypadStep s) :=
  .devices (by simp [joypadStep]) (by simp [joypadStep]) (by simp [joypadStep]) (by simp [joypadStep])

/-- The bus step touches neither the engine nor the session, and keeps memory canonical. -/
theorem busStep_outside (s : State) : Outside s (busStep s) :=
  ((timerStep_outside s).trans (oamDmaStep_outside _)).trans (joypadStep_outside _)

/-! ## The audio step -/

theorem onDivisor_outside {f : State → State} (hf : ∀ s, Outside s (f s)) (dv : Nat) (s : State) :
    Outside s (onDivisor dv f s) := by
  unfold onDivisor; split
  · exact hf s
  · exact .refl s

theorem sweepStep_outside (s : State) : Outside s (sweepStep s) := by
  have hf : ∀ u, Outside u (sweepFire u) := by
    intro u; unfold sweepFire; simp only
    split
    · exact .devices rfl rfl rfl rfl
    · split
      · exact (Outside.devices rfl rfl rfl rfl : Outside u
          { u with audio := { u.audio with sweep := { u.audio.sweep with
              shadow := BitVec.ofNat 11 (sweepTarget (u.io .nr10) u.audio.sweep.shadow) } } }).trans
          ((setIo_outside _ .nr13 _).trans (setIo_outside _ .nr14 _))
      · exact .refl u
  unfold sweepStep; simp only
  split
  · exact .refl s
  · split
    · exact (Outside.devices rfl rfl rfl rfl : Outside s
        { s with audio := { s.audio with sweep := { s.audio.sweep with
          count := sweepPeriod (s.io .nr10) } } }).trans (hf _)
    · exact .devices rfl rfl rfl rfl

theorem lengthStep_outside (s : State) : Outside s (lengthStep s) := audio_outside s _
theorem envelopeStep_outside (s : State) : Outside s (envelopeStep s) := audio_outside s _
theorem channelsTick_outside (s : State) : Outside s (channelsTick s) := audio_outside s _
theorem sampleTick_outside (s : State) : Outside s (sampleTick s) := audio_outside s _

theorem sequencerTick_outside (s : State) : Outside s (sequencerTick s) := by
  unfold sequencerTick
  exact (((onDivisor_outside lengthStep_outside s.cfg.lenDiv s).trans
    (onDivisor_outside sweepStep_outside s.cfg.sweepDiv _)).trans
    (onDivisor_outside envelopeStep_outside Config.frameSeqPeriod _)).trans (audio_outside _ _)

/-- The audio step touches neither the engine nor the session, and keeps memory canonical. -/
theorem audioStep_outside (s : State) : Outside s (audioStep s) :=
  ((sequencerTick_outside s).trans (channelsTick_outside _)).trans (sampleTick_outside _)

/-! ## The video step -/

theorem setMode_outside (m : BitVec 2) (s : State) : Outside s (setMode m s) := setIo_outside s _ _

theorem lineCompare_outside (s : State) : Outside s (lineCompare s) :=
  (setIo_outside s .stat _).trans (requestIf_outside _ _ _)

theorem visibleLineStart_outside (s : State) : Outside s (visibleLineStart s) := by
  have h1 : ∀ u : State, ∀ v : Video, Outside u { u with video := v } := fun _ _ => .devices rfl rfl rfl rfl
  exact (((h1 s _).trans (lineCompare_outside _)).trans (h1 _ _)).trans
    ((setMode_outside 2 _).trans (requestIf_outside (setMode 2 _) _ _))

theorem vblankLineStart_outside (s : State) : Outside s (vblankLineStart s) := by
  unfold vblankLineStart; simp only
  refine Outside.trans ?_ (lineCompare_outside _)
  split
  · exact ((setMode_outside 1 s).trans (request_outside _ _)).trans (requestIf_outside _ _ _)
  · exact setMode_outside 1 s

theorem hblank_outside (s : State) : Outside s (hblank s) :=
  (((setMode_outside 0 s).trans (hblankDma_outside _)).trans (requestIf_outside _ _ _)).trans (.devices rfl rfl rfl rfl)

theorem videoAct_outside (s : State) : Outside s (videoAct s) := by
  unfold videoAct
  split
  · split
    · exact visibleLineStart_outside s
    · split
      · exact setMode_outside 3 s
      · split
        · exact hblank_outside s
        · split
          · exact .devices rfl rfl rfl rfl
          · exact .refl s
  · split
    · exact vblankLineStart_outside s
    · exact .refl s

theorem videoAdvance_outside (s : State) : Outside s (videoAdvance s) := by
  unfold videoAdvance; split <;> exact .devices rfl rfl rfl rfl

theorem videoOff_outside (s : State) : Outside s (videoOff s) := (setMode_outside 0 s).trans (.devices rfl rfl rfl rfl)

/-- The video step touches neither the engine nor the session, and keeps memory canonical. -/
theorem videoStep_outside (s : State) : Outside s (videoStep s) := by
  unfold videoStep; split
  · exact (videoAct_outside s).trans (videoAdvance_outside _)
  · exact videoOff_outside s

end Sys2Proof.Machine
end

