-- ==== Sys2Proof/Laws/Ops.lean ====
section
/-! SUPPORT. What the shared operations of the meanings do, said once for each: a bus access and the engine's registers do not see
each other; fetch, stack and control-transfer operations as one read or write and one register update. -/

namespace Sys2Proof.Machine

/-! ## What an address resolves to -/

/-- The resolution of an address depends on the parameters, the selectors and the controller alone. -/
theorem place_congr {s t : State} (h1 : t.cfg = s.cfg) (h2 : t.mbc = s.mbc) (h3 : t.bootMapped = s.bootMapped)
    (h4 : t.io .vbk = s.io .vbk) (h5 : t.io .svbk = s.io .svbk) (a : Word) : place t a = place s a := by
  have e1 : romBankHigh t = romBankHigh s := by unfold romBankHigh selectedRomBank; rw [h1, h2]
  have e2 : ∀ n, romOffset t n = romOffset s n := by intro n; unfold romOffset; rw [e1]
  have e3 : ∀ n, romPlace t n = romPlace s n := by intro n; unfold romPlace; rw [e2, h1]
  have e4 : ∀ n, romOrBoot t n = romOrBoot s n := by intro n; unfold romOrBoot; rw [e3, h3, h1]
  have e5 : vramBank t = vramBank s := by unfold vramBank; rw [h1, h4]
  have e6 : wramBank t = wramBank s := by unfold wramBank; rw [h1, h5]
  have e7 : ∀ b, ramBankOrDenied t b = ramBankOrDenied s b := by intro b; unfold ramBankOrDenied; rw [h1]
  have e8 : extPlace t = extPlace s := by unfold extPlace; simp only [e7, h1, h2]
  have e9 : ∀ n, extOf t n = extOf s n := by intro n; unfold extOf; rw [e8]
  unfold place
  simp only [e4, e5, e6, e9, h1]

@[simp] theorem place_setCpu (s : State) (c : Cpu) (a : Word) : place (s.setCpu c) a = place s a := by
  exact place_congr (s := s) (t := s.setCpu c) rfl rfl rfl rfl rfl a

/-! ## A bus access does not see the engine -/

theorem ioRead_setCpu (s : State) (c : Cpu) (r : IoReg) : ioRead (s.setCpu c) r = ioRead s r := by
  cases r <;> rfl

theorem rtcValue_setCpu (s : State) (c : Cpu) (r : RtcReg) : rtcValue (s.setCpu c) r = rtcValue s r := by
  cases r <;> rfl

@[simp] theorem peek_setCpu (s : State) (c : Cpu) (a : Word) : peek (s.setCpu c) a = peek s a := by
  unfold peek
  rw [place_setCpu]
  split
  · rfl
  · rfl
  · rfl
  · exact rtcValue_setCpu s c _
  · rfl
  · exact ioRead_setCpu s c _
  · rfl
  · rfl

@[simp] theorem cpuRestricted_setCpu (s : State) (c : Cpu) (a : Word) :
    cpuRestricted (s.setCpu c) a = cpuRestricted s a := by
  unfold cpuRestricted; rw [State.setCpu_dma]

@[simp] theorem cpuPeek_setCpu (s : State) (c : Cpu) (a : Word) : cpuPeek (s.setCpu c) a = cpuPeek s a := by
  unfold cpuPeek; simp only [cpuRestricted_setCpu, peek_setCpu]

@[simp] theorem observe_setCpu (s : State) (c : Cpu) (a : Word) : observe (s.setCpu c) a = (observe s a).setCpu c := by
  unfold observe
  rw [place_setCpu]
  split <;> rfl

@[simp] theorem cpuObserve_setCpu (s : State) (c : Cpu) (a : Word) :
    cpuObserve (s.setCpu c) a = (cpuObserve s a).setCpu c := by
  unfold cpuObserve
  rw [cpuRestricted_setCpu, observe_setCpu]
  split <;> rfl

theorem hdmaCopy_setCpu (src dst : Word) (n k : Nat) (s : State) (c : Cpu) :
    hdmaCopy src dst n k (s.setCpu c) = (hdmaCopy src dst n k s).setCpu c := by
  induction n generalizing k s with
  | zero => rfl
  | succ n ih =>
    unfold hdmaCopy
    simp only [peek_setCpu, observe_setCpu]
    rw [← ih]
    rfl

theorem generalDma_setCpu (v : Byte) (s : State) (c : Cpu) : generalDma v (s.setCpu c) = (generalDma v s).setCpu c := by
  unfold generalDma
  have h := hdmaCopy_setCpu (hdmaSrc s) (hdmaDst s) ((v.toNat % 128 + 1) * 16) 0 s c
  have h1 : hdmaSrc (s.setCpu c) = hdmaSrc s := rfl
  have h2 : hdmaDst (s.setCpu c) = hdmaDst s := rfl
  simp only [h1, h2, h]
  rfl

theorem hdma5Write_setCpu (v : Byte) (s : State) (c : Cpu) : hdma5Write v (s.setCpu c) = (hdma5Write v s).setCpu c := by
  unfold hdma5Write
  by_cases h : bit v 7 = true
  · rw [if_pos h, if_pos h]; rfl
  · rw [if_neg h, if_neg h, State.setCpu_hdma]
    by_cases h' : s.hdma.active = true
    · rw [if_pos h', if_pos h']; rfl
    · rw [if_neg h', if_neg h']; exact generalDma_setCpu v s c

theorem triggerIf_setCpu {f : State → State} (hf : ∀ s c, f (s.setCpu c) = (f s).setCpu c) (v : Byte) (s : State) (c : Cpu) :
    triggerIf v f (s.setCpu c) = (triggerIf v f s).setCpu c := by
  unfold triggerIf; split
  · exact hf s c
  · rfl

theorem ioWrite_setCpu (r : IoReg) (v : Byte) (s : State) (c : Cpu) :
    ioWrite r v (s.setCpu c) = (ioWrite r v s).setCpu c := by
  cases r
  case nr14 => exact triggerIf_setCpu (f := trigger1) (fun _ _ => rfl) v (storeIo .nr14 v s) c
  case nr24 => exact triggerIf_setCpu (f := trigger2) (fun _ _ => rfl) v (storeIo .nr24 v s) c
  case nr34 => exact triggerIf_setCpu (f := trigger3) (fun _ _ => rfl) v (storeIo .nr34 v s) c
  case nr44 => exact triggerIf_setCpu (f := trigger4) (fun _ _ => rfl) v (storeIo .nr44 v s) c
  case hdma5 => exact hdma5Write_setCpu v s c
  all_goals rfl

theorem mbcWrite_setCpu (n : Nat) (v : Byte) (s : State) (c : Cpu) :
    mbcWrite n v (s.setCpu c) = (mbcWrite n v s).setCpu c := by
  unfold mbcWrite
  simp only [State.setCpu_cfg]
  split <;> rfl

@[simp] theorem busWrite_setCpu (a : Word) (v : Byte) (s : State) (c : Cpu) :
    busWrite a v (s.setCpu c) = (busWrite a v s).setCpu c := by
  unfold busWrite
  rw [place_setCpu]
  split
  · exact mbcWrite_setCpu _ v s c
  · rfl
  · rfl
  · rfl
  · exact ioWrite_setCpu _ v s c
  · rfl
  · rfl

@[simp] theorem cpuWrite_setCpu (a : Word) (v : Byte) (s : State) (c : Cpu) :
    cpuWrite a v (s.setCpu c) = (cpuWrite a v s).setCpu c := by
  unfold cpuWrite
  rw [cpuRestricted_setCpu, busWrite_setCpu]
  split <;> rfl

/-! ## The engine after a bus access -/

@[simp] theorem observe_cpu (s : State) (a : Word) : (observe s a).cpu = s.cpu := (observe_outside s a).cpu
@[simp] theorem cpuObserve_cpu (s : State) (a : Word) : (cpuObserve s a).cpu = s.cpu := (cpuObserve_outside s a).cpu
@[simp] theorem busWrite_cpu (a : Word) (v : Byte) (s : State) : (busWrite a v s).cpu = s.cpu := (busWrite_outside a v s).cpu
@[simp] theorem cpuWrite_cpu (a : Word) (v : Byte) (s : State) : (cpuWrite a v s).cpu = s.cpu := (cpuWrite_outside a v s).cpu

@[simp] theorem cpuObserve_reg (s : State) (a : Word) (r : Reg8) : (cpuObserve s a).reg r = s.reg r := by
  cases r <;> simp [State.reg]
@[simp] theorem cpuObserve_hl (s : State) (a : Word) : (cpuObserve s a).hl = s.hl := by simp [State.hl]
@[simp] theorem cpuWrite_hl (a : Word) (v : Byte) (s : State) : (cpuWrite a v s).hl = s.hl := by simp [State.hl]
@[simp] theorem State.setCpu_hl_of (s : State) (c : Cpu) : (s.setCpu c).hl = join16 c.h c.l := rfl

/-- Setting the stack pointer of a state in which only the engine differs. -/
theorem State.setSp_eq (s : State) (v : Word) : s.setSp v = s.setCpu { s.cpu with sp := v } := rfl
theorem State.setPc_eq (s : State) (v : Word) : s.setPc v = s.setCpu { s.cpu with pc := v } := rfl
theorem State.setF_eq (s : State) (f : Flags) : s.setF f = s.setCpu { s.cpu with f := f } := rfl
theorem State.setHl_eq (s : State) (v : Word) : s.setHl v = s.setCpu { s.cpu with h := hiByte v, l := loByte v } := rfl

/-! ## Shared operations -/

/-- `finish` sets the duration and answers a next state. -/
theorem finish_eq (n : Nat) (s : State) : finish n s = .next (s.lasting n) := rfl

/-- One fetched byte: the byte the CPU reads at `pc`, with `pc` past it. -/
theorem fetch8_eq (s : State) :
    fetch8 s = (cpuPeek s s.cpu.pc, (cpuObserve s s.cpu.pc).setPc (s.cpu.pc + 1)) := by
  simp [fetch8]

/-- A push stores the high byte at `sp - 1`, then the low byte at `sp - 2`. -/
theorem push16_eq (v : Word) (s : State) : push16 v s = s.pushed v := by
  have h : s.cpu.sp - 1#16 - 1#16 = s.cpu.sp - 2#16 := by rw [BitVec.sub_sub]; rfl
  simp [push16, push8, State.pushed, State.setSp_eq, h, hiByte, loByte]

/-- A pop reads the low byte at `sp`, then the high byte at `sp + 1`. -/
theorem pop16_eq (s : State) : pop16 s = s.popped := by
  have h : s.cpu.sp + 1#16 + 1#16 = s.cpu.sp + 2#16 := by rw [BitVec.add_assoc]; rfl
  simp [pop16, pop8, State.popped, State.setSp_eq, h, join16]

/-- A call pushes `pc` and goes to the target. -/
theorem callTo_eq (target : Word) (s : State) : callTo target s = (s.pushed s.cpu.pc).setPc target := by
  rw [callTo, push16_eq]

/-- A return pops `pc`. -/
theorem popPc_eq (s : State) : popPc s = s.popped.2.setPc s.popped.1 := by rw [popPc, pop16_eq]

/-- Taking an interrupt: `IME`, the `EI` delay and the request are cleared, `pc` is pushed, `pc` is the handler's address. -/
theorem dispatchInterrupt_eq (q : Irq) (s : State) :
    dispatchInterrupt q s =
      ((({ s with iflag := s.iflag &&& ~~~q.mask }).setCpu { s.cpu with ime := false, eiDelay := 0 }).pushed
        s.cpu.pc).setPc q.vector := by
  unfold dispatchInterrupt
  exact callTo_eq _ _

/-- A load from memory reads once. -/
theorem loadReg_eq (r : Reg8) (a : Word) (s : State) : loadReg r a s = (cpuObserve s a).setReg r (cpuPeek s a) := rfl

/-- A read-modify-write reads once, then writes once, then sets the flags. -/
theorem modifyHl_eq (f : Byte → Byte × Flags) (s : State) :
    modifyHl f s = (cpuWrite s.hl (f (cpuPeek s s.hl)).1 (cpuObserve s s.hl)).setF (f (cpuPeek s s.hl)).2 := by
  simp [modifyHl, cpuRead]

/-! ## Meanings -/

/-- What a meaning answers: a next state whose duration is at least the 4 ticks of one opcode byte. -/
def Completes (r : Result) : Prop := ∃ t, r = .next t ∧ 4 ≤ t.cpu.dur

theorem finish_completes {n : Nat} (h : 4 ≤ n) (s : State) : Completes (finish n s) := ⟨_, rfl, h⟩

theorem ite_completes {b : Prop} [Decidable b] {p q : Result} (hp : Completes p) (hq : Completes q) :
    Completes (if b then p else q) := by split <;> assumption

theorem runOrHl_completes {r : Option Reg8} {reg : Reg8 → State → Result} {mem : State → Result} {s : State}
    (hr : ∀ i, Completes (reg i s)) (hm : Completes (mem s)) : Completes (runOrHl r reg mem s) := by
  unfold runOrHl; split
  · exact hr _
  · exact hm

theorem execCbPrefix_completes (op2 : Byte) (s : State) : Completes (execCbPrefix op2 s) := by
  have f8 : ∀ t, Completes (finish 8 t) := finish_completes (by decide)
  have f12 : ∀ t, Completes (finish 12 t) := finish_completes (by decide)
  have f16 : ∀ t, Completes (finish 16 t) := finish_completes (by decide)
  unfold execCbPrefix
  simp only
  split
  · split <;> exact runOrHl_completes (fun _ => f8 _) (f16 _)
  · exact runOrHl_completes (fun _ => f8 _) (f12 _)
  · exact runOrHl_completes (fun _ => f8 _) (f16 _)
  · exact runOrHl_completes (fun _ => f8 _) (f16 _)

/-- Every instruction of every state completes. -/
theorem exec_completes (i : Instr) (s : State) : Completes (exec i s) := by
  cases i
  case cbPrefix op2 => exact execCbPrefix_completes op2 s
  case jpCcN16 cc n => exact ite_completes (finish_completes (by decide) _) (finish_completes (by decide) _)
  case jrCcE8 cc e => exact ite_completes (finish_completes (by decide) _) (finish_completes (by decide) _)
  case callCcN16 cc n => exact ite_completes (finish_completes (by decide) _) (finish_completes (by decide) _)
  case retCc cc => exact ite_completes (finish_completes (by decide) _) (finish_completes (by decide) _)
  all_goals exact finish_completes (by decide) _

/-- An extended opcode runs the instruction of the secondary table (46_system.md rule R290). -/
theorem exec_cbPrefix (op2 : Byte) (s : State) : exec (.cbPrefix op2) s = exec (decodeSecondary op2) s := by
  show execCbPrefix op2 s = _
  unfold execCbPrefix decodeSecondary
  generalize reg8Of (fieldZ op2) = r
  generalize fieldX op2 = x
  generalize fieldY op2 = y
  rcases x with _ | _ | _ | x
  · rcases y with _ | _ | _ | _ | _ | _ | _ | y <;> cases r <;> rfl
  all_goals cases r <;> rfl

end Sys2Proof.Machine
end

