-- ==== Sys2Proof/Laws/Exec.lean ====
section
/-! SUPPORT. What an instruction as a whole leaves alone: the launch parameters, the session, the video unit, the sample pairs, and
the canonical form of memory. Its accesses reach the rest of the machine only through the bus. -/

namespace Sys2Proof.Machine

/-- `t` comes from `s` by accesses to the bus and changes of the engine. -/
structure Access (s t : State) : Prop where
  cfg : t.cfg = s.cfg
  session : t.session = s.session
  video : t.video = s.video
  pairs : t.audio.pairs = s.audio.pairs
  out : t.audio.out = s.audio.out
  dma : s.dma.left ≤ 160 → t.dma.left ≤ 160
  memWf : Memory.wf s.mem → Memory.wf t.mem

theorem Access.refl (s : State) : Access s s := ⟨rfl, rfl, rfl, rfl, rfl, id, id⟩

theorem Access.trans {s t u : State} (h : Access s t) (h' : Access t u) : Access s u :=
  ⟨h'.cfg.trans h.cfg, h'.session.trans h.session, h'.video.trans h.video, h'.pairs.trans h.pairs, h'.out.trans h.out,
    h'.dma ∘ h.dma, h'.memWf ∘ h.memWf⟩

theorem setCpu_access (s : State) (c : Cpu) : Access s (s.setCpu c) := ⟨rfl, rfl, rfl, rfl, rfl, id, id⟩

theorem setCell_access (s : State) (k : Nat) (v : Byte) : Access s (s.setCell k v) :=
  ⟨rfl, rfl, rfl, rfl, rfl, id, fun h => Memory.wf_set h k v⟩

theorem setIo_access (s : State) (r : IoReg) (v : Byte) : Access s (s.setIo r v) := setCell_access s _ v

theorem iflag_access (s : State) (x : BitVec 5) : Access s { s with iflag := x } := ⟨rfl, rfl, rfl, rfl, rfl, id, id⟩

theorem audio_access (s : State) (x : Audio) (h : x.pairs = s.audio.pairs) (h' : x.out = s.audio.out) :
    Access s { s with audio := x } := ⟨rfl, rfl, rfl, h, h', id, id⟩

theorem hdma_access {s t : State} (h : Access s t) (x : Hdma) : Access s { t with hdma := x } :=
  ⟨h.cfg, h.session, h.video, h.pairs, h.out, h.dma, h.memWf⟩

theorem observe_access (s : State) (a : Word) : Access s (observe s a) := by
  unfold observe; split
  · exact ⟨rfl, rfl, rfl, rfl, rfl, id, id⟩
  · exact .refl s

theorem hdmaCopy_access (src dst : Word) (n k : Nat) (s : State) : Access s (hdmaCopy src dst n k s) := by
  induction n generalizing k s with
  | zero => exact .refl s
  | succ n ih => exact ((observe_access s _).trans (setCell_access _ _ _)).trans (ih _ _)

theorem hblankDma_access (s : State) : Access s (hblankDma s) := by
  unfold hblankDma; split
  · exact hdma_access (hdmaCopy_access _ _ 16 0 s) _
  · exact .refl s

theorem hdma5Write_access (v : Byte) (s : State) : Access s (hdma5Write v s) := by
  unfold hdma5Write; split
  · exact hdma_access (.refl s) _
  · split
    · exact hdma_access (.refl s) _
    · exact hdma_access (hdmaCopy_access _ _ _ _ s) _

theorem triggerIf_access {f : State → State} (hf : ∀ s, Access s (f s)) (v : Byte) (s : State) :
    Access s (triggerIf v f s) := by
  unfold triggerIf; split
  · exact hf s
  · exact .refl s

theorem trigger1_access (s : State) : Access s (trigger1 s) := audio_access s _ rfl rfl
theorem trigger2_access (s : State) : Access s (trigger2 s) := audio_access s _ rfl rfl
theorem trigger3_access (s : State) : Access s (trigger3 s) := audio_access s _ rfl rfl
theorem trigger4_access (s : State) : Access s (trigger4 s) := audio_access s _ rfl rfl

theorem ioWrite_access (r : IoReg) (v : Byte) (s : State) : Access s (ioWrite r v s) := by
  have hs : ∀ r, Access s (storeIo r v s) := fun r => setIo_access s r _
  cases r
  case nr11 | nr21 | nr31 | nr41 => exact (hs _).trans (audio_access _ _ rfl rfl)
  case nr14 => exact (hs _).trans (triggerIf_access trigger1_access v _)
  case nr24 => exact (hs _).trans (triggerIf_access trigger2_access v _)
  case nr34 => exact (hs _).trans (triggerIf_access trigger3_access v _)
  case nr44 => exact (hs _).trans (triggerIf_access trigger4_access v _)
  case nr52 => exact audio_access s _ rfl rfl
  case p1 | div | intf | hdma1 | hdma2 | hdma3 | hdma4 => exact ⟨rfl, rfl, rfl, rfl, rfl, id, id⟩
  case ly => exact .refl s
  case stat => exact setIo_access s _ _
  case dma => exact ⟨rfl, rfl, rfl, rfl, rfl, fun _ => Nat.le_refl 160, (setIo_access s .dma v).memWf⟩
  case bank => exact (hs _).trans ⟨rfl, rfl, rfl, rfl, rfl, id, id⟩
  case hdma5 => exact hdma5Write_access v s
  case bcpd => exact (setCell_access s _ _).trans (setIo_access _ _ _)
  case ocpd => exact (setCell_access s _ _).trans (setIo_access _ _ _)
  all_goals exact hs _

theorem busWrite_access (a : Word) (v : Byte) (s : State) : Access s (busWrite a v s) := by
  unfold busWrite; split
  · unfold mbcWrite; split <;> exact ⟨rfl, rfl, rfl, rfl, rfl, id, id⟩
  · exact setCell_access s _ v
  · exact ⟨rfl, rfl, rfl, rfl, rfl, id, id⟩
  · exact .refl s
  · exact ioWrite_access _ v s
  · exact ⟨rfl, rfl, rfl, rfl, rfl, id, id⟩
  · exact .refl s

theorem cpuWrite_access (a : Word) (v : Byte) (s : State) : Access s (cpuWrite a v s) := by
  unfold cpuWrite; split
  · exact .refl s
  · exact busWrite_access a v s

theorem cpuObserve_access (s : State) (a : Word) : Access s (cpuObserve s a) := by
  unfold cpuObserve; split
  · exact .refl s
  · exact observe_access s a

/-! ## Shared operations and instructions -/

theorem setReg_access (s : State) (r : Reg8) (v : Byte) : Access s (s.setReg r v) := by
  cases r <;> exact setCpu_access s _

theorem setPair_access (s : State) (p : Pair) (v : Word) : Access s (s.setPair p v) := by
  cases p <;> exact setCpu_access s _

theorem setStackPair_access (s : State) (q : StackPair) (v : Word) : Access s (s.setStackPair q v) := by
  cases q <;> exact setCpu_access s _

theorem setAF_access (p : Byte × Flags) (s : State) : Access s (setAF p s) := setCpu_access s _

theorem pushed_access (s : State) (v : Word) : Access s (s.pushed v) :=
  ((cpuWrite_access _ _ s).trans (cpuWrite_access _ _ _)).trans (setCpu_access _ _)

theorem popped_access (s : State) : Access s s.popped.2 :=
  ((cpuObserve_access s _).trans (cpuObserve_access _ _)).trans (setCpu_access _ _)

theorem callTo_access (target : Word) (s : State) : Access s (callTo target s) := by
  rw [callTo_eq]; exact (pushed_access s _).trans (setCpu_access _ _)

theorem popPc_access (s : State) : Access s (popPc s) := by
  rw [popPc_eq]; exact (popped_access s).trans (setCpu_access _ _)

theorem loadReg_access (r : Reg8) (a : Word) (s : State) : Access s (loadReg r a s) :=
  (cpuObserve_access s a).trans (setReg_access _ _ _)

theorem aluHl_access (f : Byte → Byte → Byte × Flags) (s : State) : Access s (aluHl f s) :=
  (cpuObserve_access s _).trans (setAF_access _ _)

theorem modifyReg_access (f : Byte → Byte × Flags) (r : Reg8) (s : State) : Access s (modifyReg f r s) :=
  (setReg_access s r _).trans (setCpu_access _ _)

theorem modifyHl_access (f : Byte → Byte × Flags) (s : State) : Access s (modifyHl f s) := by
  rw [modifyHl_eq]
  exact ((cpuObserve_access s _).trans (cpuWrite_access _ _ _)).trans (setCpu_access _ _)

theorem dispatchInterrupt_access (q : Irq) (s : State) : Access s (dispatchInterrupt q s) :=
  ((setCpu_access s { s.cpu with ime := false, eiDelay := 0 }).trans (iflag_access _ _)).trans (callTo_access _ _)

/-- What `finish` answers is its state with the duration set. -/
theorem finish_inj {n : Nat} {s t : State} (h : finish n s = .next t) : t = s.lasting n := by injection h with h; exact h.symm

theorem finish_access {n : Nat} {s s' t : State} (ha : Access s s') (h : finish n s' = .next t) : Access s t := by
  rw [finish_inj h]; exact ha.trans (setCpu_access _ _)

theorem ite_access {b : Bool} {p q : Result} {s t : State} (hp : p = .next t → Access s t) (hq : q = .next t → Access s t)
    (h : (if b then p else q) = .next t) : Access s t := by
  cases b
  · exact hq h
  · exact hp h

/-- An instruction other than an extended opcode's first byte. -/
theorem exec_access_primary (i : Instr) (s t : State) (hi : ∀ o, i ≠ .cbPrefix o) (h : exec i s = .next t) : Access s t := by
  cases i
  case cbPrefix o => exact absurd rfl (hi o)
  case ldRR | ldRN8 => exact finish_access (setReg_access _ _ _) h
  case ldRHl | ldABc | ldADe | ldAN16 | ldhAC | ldhAN8 => exact finish_access (loadReg_access _ _ _) h
  case ldHlR | ldHlN8 | ldBcA | ldDeA | ldN16A | ldhCA | ldhN8A => exact finish_access (cpuWrite_access _ _ _) h
  case ldAHld | ldAHli => exact finish_access ((loadReg_access _ _ _).trans (setCpu_access _ _)) h
  case ldHldA | ldHliA => exact finish_access ((cpuWrite_access _ _ _).trans (setCpu_access _ _)) h
  case ldRrN16 | incRr | decRr => exact finish_access (setPair_access _ _ _) h
  case ldN16Sp => exact finish_access ((cpuWrite_access _ _ _).trans (cpuWrite_access _ _ _)) h
  case pushRs => exact finish_access (push16_eq _ s ▸ pushed_access s _) h
  case popRs q =>
    exact finish_access (Access.trans (t := (pop16 s).2) (pop16_eq s ▸ popped_access s) (setStackPair_access _ _ _)) h
  case popAf =>
    exact finish_access (Access.trans (t := (pop16 s).2) (pop16_eq s ▸ popped_access s) (setStackPair_access _ _ _)) h
  case addAHl | adcAHl | subAHl | sbcAHl | andAHl | xorAHl | orAHl => exact finish_access (aluHl_access _ _) h
  case cpAHl => exact finish_access ((cpuObserve_access _ _).trans (setCpu_access _ _)) h
  case incHl | decHl => exact finish_access (modifyHl_access _ _) h
  case incR | decR => exact finish_access (modifyReg_access _ _ _) h
  case rlcR | rrcR | rlR | rrR | slaR | sraR | swapR | srlR => exact finish_access (modifyReg_access _ _ _) h
  case rlcHl | rrcHl | rlHl | rrHl | slaHl | sraHl | swapHl | srlHl => exact finish_access (modifyHl_access _ _) h
  case bitBHl => exact finish_access ((cpuObserve_access _ _).trans (setCpu_access _ _)) h
  case resBR | setBR => exact finish_access (setReg_access _ _ _) h
  case resBHl | setBHl => exact finish_access ((cpuObserve_access _ _).trans (cpuWrite_access _ _ _)) h
  case jpCcN16 | jrCcE8 => exact ite_access (finish_access (setCpu_access _ _)) (finish_access (.refl _)) h
  case callN16 | rstT => exact finish_access (callTo_access _ _) h
  case callCcN16 => exact ite_access (finish_access (callTo_access _ _)) (finish_access (.refl _)) h
  case ret => exact finish_access (popPc_access _) h
  case retCc => exact ite_access (finish_access (popPc_access _)) (finish_access (.refl _)) h
  case reti => exact finish_access ((popPc_access _).trans (setCpu_access _ _)) h
  case intVblank | intStat | intTimer | intSerial | intJoypad => exact finish_access (dispatchInterrupt_access _ _) h
  case nop => exact finish_access (.refl _) h
  case illegalD3 | illegalDB | illegalDD | illegalE3 | illegalE4 | illegalEB | illegalEC | illegalED | illegalF4 | illegalFC
    | illegalFD => exact finish_access (.refl _) h
  all_goals exact finish_access (setCpu_access _ _) h

theorem decodeSecondary_ne_prefix (op2 o : Byte) : decodeSecondary op2 ≠ .cbPrefix o := by
  unfold decodeSecondary
  generalize reg8Of (fieldZ op2) = r
  generalize fieldX op2 = x
  generalize fieldY op2 = y
  rcases x with _ | _ | _ | x
  · rcases y with _ | _ | _ | _ | _ | _ | _ | y <;> cases r <;> exact nofun
  all_goals cases r <;> exact nofun

/-- Every instruction reaches the rest of the machine only through the bus. -/
theorem exec_access (i : Instr) (s t : State) (h : exec i s = .next t) : Access s t := by
  by_cases hi : ∃ o, i = .cbPrefix o
  · obtain ⟨o, rfl⟩ := hi
    rw [exec_cbPrefix] at h
    exact exec_access_primary _ s t (decodeSecondary_ne_prefix o) h
  · exact exec_access_primary i s t (fun o ho => hi ⟨o, ho⟩) h

end Sys2Proof.Machine
end

