-- ==== Sys2Proof/Laws/Engine.lean ====
section
/-! SUPPORT. The engine, tick by tick: the interrupt controller, the completion step, and what one step of the machine is in each
of the engine's situations. -/

namespace Sys2Proof.Machine

/-! ## Interrupt controller and completion -/

@[simp] theorem pending_setCpu (s : State) (c : Cpu) : pending (s.setCpu c) = pending s := rfl

theorem lowestIrq_zero : lowestIrq 0 = none := by decide

theorem lowestIrq_none : ∀ p : BitVec 5, lowestIrq p = none ↔ p = 0 := by decide

theorem consult_setCpu (s : State) (c : Cpu) :
    consult (s.setCpu c) = if c.ime then lowestIrq (pending s) else none := rfl

/-- The delay step as one update. -/
theorem eiStep_eq (s : State) : eiStep s = s.setCpu { s.cpu with
    eiDelay := s.cpu.eiDelay - 1, ime := s.cpu.ime || decide (s.cpu.eiDelay = 1) } := by
  unfold eiStep
  split
  · next h =>
    have e1 : s.cpu.eiDelay - 1 = s.cpu.eiDelay := by omega
    have e2 : (s.cpu.ime || decide (s.cpu.eiDelay = 1)) = s.cpu.ime := by rw [h]; simp
    rw [e1, e2]
    rfl
  · rfl

/-- The wake-up at a boundary as one update. -/
theorem wakeAtBoundary_eq (s : State) : wakeAtBoundary s = s.setCpu { s.cpu with
    halted := s.cpu.halted && decide (pending s = 0) } := by
  unfold wakeAtBoundary
  by_cases h : pending s = 0
  · have e : (s.cpu.halted && decide (pending s = 0)) = s.cpu.halted := by rw [decide_eq_true h, Bool.and_true]
    rw [if_neg (fun hh => by simp only [h, ne_eq, not_true_eq_false, decide_false, Bool.and_false, Bool.false_eq_true] at hh), e]
    rfl
  · have e : (s.cpu.halted && decide (pending s = 0)) = false := by rw [decide_eq_false h, Bool.and_false]
    rw [e, decide_eq_true h, Bool.and_true]
    cases h' : s.cpu.halted
    · rw [if_neg (by decide), ← h']; rfl
    · rfl

/-- The completion step as one update (60_exceptions.md rule R311). -/
theorem completeStep_eq (s : State) : completeStep s = s.setCpu { s.cpu with
    cur := none
    eiDelay := s.cpu.eiDelay - 1
    ime := s.cpu.ime || decide (s.cpu.eiDelay = 1)
    halted := s.cpu.halted && decide (pending s = 0)
    nextInt := if s.cpu.ime || decide (s.cpu.eiDelay = 1) then lowestIrq (pending s) else none } := by
  unfold completeStep
  rw [eiStep_eq, wakeAtBoundary_eq]
  rfl

theorem idleTick_running {s : State} (h : s.cpu.ustep + 1 < s.cpu.dur) :
    idleTick s = s.setCpu { s.cpu with ustep := s.cpu.ustep + 1 } := if_neg (Nat.not_le.mpr h)

theorem idleTick_done {s : State} (h : s.cpu.dur ≤ s.cpu.ustep + 1) :
    idleTick s = completeStep (s.setCpu { s.cpu with ustep := s.cpu.ustep + 1 }) := if_pos h

/-- A tick of an instruction changes the engine alone. -/
theorem idleTick_access (s : State) : Access s (idleTick s) := by
  unfold idleTick
  simp only
  split
  · rw [completeStep_eq]; exact setCpu_access s _
  · exact setCpu_access s _

theorem haltTick_access (s : State) : Access s (haltTick s) := by
  unfold haltTick consultStep
  split
  · exact setCpu_access s _
  · exact .refl s

/-! ## The engine step -/

theorem exec_next (i : Instr) (s : State) : ∃ t, exec i s = .next t := by
  obtain ⟨t, h, _⟩ := exec_completes i s
  exact ⟨t, h⟩

/-- The first call of an executor has the instruction's whole effect. -/
theorem executorStep_first {i : Instr} {s t : State} (h : s.cpu.ustep = 0) (he : exec i s = .next t) :
    executorStep i s = .next (idleTick t) := by
  simp only [executorStep, h, he, if_true]

/-- Later calls do nothing but count. -/
theorem executorStep_later {i : Instr} {s : State} (h : 0 < s.cpu.ustep) : executorStep i s = .next (idleTick s) := by
  simp only [executorStep, Nat.ne_of_gt h, if_false]

/-- A call of an executor answers a next state, reached through the bus. -/
theorem executorStep_next (i : Instr) (s : State) : ∃ t, executorStep i s = .next t ∧ Access s t := by
  by_cases h : s.cpu.ustep = 0
  · obtain ⟨t, ht⟩ := exec_next i s
    exact ⟨_, executorStep_first h ht, (exec_access i s t ht).trans (idleTick_access t)⟩
  · exact ⟨_, executorStep_later (Nat.pos_of_ne_zero h), idleTick_access s⟩

theorem fetch8_access (s : State) : Access s (fetch8 s).2 := by
  rw [fetch8_eq]; exact (cpuObserve_access s _).trans (setCpu_access _ _)

theorem fetchRest_access (op : Byte) (s : State) : Access s (fetchRest op s).2 := by
  unfold fetchRest
  split
  · exact .refl s
  · exact fetch8_access s
  · exact (fetch8_access s).trans (fetch8_access _)

theorem decodeStep_access (s : State) : Access s (decodeStep s).2 := by
  unfold decodeStep
  split
  · exact setCpu_access s _
  · exact (fetch8_access s).trans (fetchRest_access _ _)

theorem startStep_next (s : State) : ∃ t, startStep s = .next t ∧ Access s t := by
  obtain ⟨t, h, ha⟩ := executorStep_next (decodeStep s).1
    ((decodeStep s).2.setCpu { (decodeStep s).2.cpu with cur := some (decodeStep s).1, ustep := 0 })
  exact ⟨t, h, ((decodeStep_access s).trans (setCpu_access _ _)).trans ha⟩

/-- The engine step of a tick answers a next state, reached through the bus. -/
theorem engineStep_next (s : State) : ∃ t, engineStep s = .next t ∧ Access s t := by
  unfold engineStep
  split
  · exact ⟨_, rfl, hdma_access (.refl s) _⟩
  · split
    · exact ⟨_, rfl, .refl s⟩
    · split
      · exact executorStep_next _ _
      · split
        · exact ⟨_, rfl, haltTick_access s⟩
        · exact startStep_next s

/-! ## The step of the machine -/

/-- A tick answers a next state: the engine's step between those of the other units. -/
theorem tick_eq {s t : State} (he : engineStep (engineView s) = .next t) : tick s = .next (afterEngine t) := by
  show (match engineStep (engineView s) with
    | .next s' => Host.Outcome.next (afterEngine s')
    | .fault r => .fault r
    | .refused r => .refused r) = _
  rw [he]

/-- A step while the clock runs is a tick. -/
theorem step_running {s t : State} (h : clockStopped s = false) (he : engineStep (engineView s) = .next t) :
    step s = .next (afterEngine t) := by
  unfold step
  rw [if_neg (by simp [h])]
  exact tick_eq he

/-- The clock runs once the stop state is left. -/
@[simp] theorem clockStopped_restart (s : State) : clockStopped (restart s) = false := rfl

/-- A step while the clock is stopped, without a button pressed, takes the mask and nothing more. -/
theorem step_asleep {s : State} (h : clockStopped s = true) (hb : anyButton (nextMask s) = false) :
    step s = .next (takeMask s) := by
  unfold step stoppedCall; rw [if_pos h, hb]; rfl

/-- With one pressed it is the first tick of a frame call. -/
theorem step_woken {s : State} (h : clockStopped s = true) (hb : anyButton (nextMask s) = true) :
    step s = step (restart s) := by
  unfold step stoppedCall; rw [if_pos h, hb]; rfl

/-- What a step does: a frame call of the stop state that makes no tick, or a tick of the units in their order, from the state
itself or from the one in which the stop state is left. -/
theorem step_cases {s t : State} (h : step s = .next t) :
    (clockStopped s = true ∧ t = takeMask s) ∨
    ∃ r u, ((r = s ∧ clockStopped s = false) ∨ (r = restart s ∧ clockStopped s = true)) ∧
      engineStep (engineView r) = .next u ∧ Access (engineView r) u ∧ t = afterEngine u := by
  have run : ∀ r, clockStopped r = false → step r = .next t →
      ∃ u, engineStep (engineView r) = .next u ∧ Access (engineView r) u ∧ t = afterEngine u := by
    intro r hr ht
    obtain ⟨u, hu, ha⟩ := engineStep_next (engineView r)
    rw [step_running hr hu] at ht
    exact ⟨u, hu, ha, by injection ht with ht; exact ht.symm⟩
  cases hc : clockStopped s
  · exact .inr ⟨s, (run s hc h).imp fun u hu => ⟨.inl ⟨rfl, rfl⟩, hu⟩⟩
  · cases hb : anyButton (nextMask s)
    · rw [step_asleep hc hb] at h
      exact .inl ⟨rfl, by injection h with h; exact h.symm⟩
    · rw [step_woken hc hb] at h
      exact .inr ⟨restart s, (run _ rfl h).imp fun u hu => ⟨.inr ⟨rfl, rfl⟩, hu⟩⟩

/-- An engine that nothing suspends goes on with its instruction, its halt state or a decode. -/
theorem engineStep_unstalled {s : State} (h : NotStalled s) : engineStep s =
    match s.cpu.cur with
    | some i => executorStep i s
    | none => if s.cpu.halted then .next (haltTick s) else startStep s := by
  unfold engineStep
  have h2 : (s.cfg.oamDmaStallsCpu && decide (0 < s.dma.left)) = false := by
    rcases h.2 with h' | h' <;> rw [h'] <;> simp
  rw [if_neg (by rw [h.1]; decide), h2]
  rfl

/-- The engine decodes. -/
theorem engineStep_decode {s : State} (h : AtDecode s) : engineStep s = startStep s := by
  rw [engineStep_unstalled h.1, h.2.1, h.2.2]
  rfl

end Sys2Proof.Machine
end

