-- ==== Sys2Proof/Laws/PerInstr.lean ====
section
/-! SUPPORT. Statements made for every instruction, one lemma a constructor.

Length (30_encoding.md rule R121): an instruction's length is a function of its first byte alone; what the encoder writes has the
length the decoder's table gives for that byte. Only the entries of the interrupt table have no bytes (R128). -/

namespace Sys2Proof.Laws.Length

/-- The bytes of `i` are as many as the table of lengths says for the first of them; none for an interrupt-table entry. -/
def Statement (i : Instr) : Prop :=
  match encode i with
  | [] => i.inStream = false
  | op :: rest => rest.length + 1 = instrLength op

/-- The eight values of a 3-bit field. -/
theorem bits3 (b : BitVec 3) : b = 0 ∨ b = 1 ∨ b = 2 ∨ b = 3 ∨ b = 4 ∨ b = 5 ∨ b = 6 ∨ b = 7 := by
  revert b; decide

theorem ldRR (rd rs : Reg8) : Statement (.ldRR rd rs) := by cases rd <;> cases rs <;> rfl
theorem ldRN8 (r : Reg8) (n : Byte) : Statement (.ldRN8 r n) := by cases r <;> rfl
theorem ldRHl (r : Reg8) : Statement (.ldRHl r) := by cases r <;> rfl
theorem ldHlR (r : Reg8) : Statement (.ldHlR r) := by cases r <;> rfl
theorem ldHlN8 (n : Byte) : Statement (.ldHlN8 n) := rfl
theorem ldABc : Statement (.ldABc) := rfl
theorem ldADe : Statement (.ldADe) := rfl
theorem ldBcA : Statement (.ldBcA) := rfl
theorem ldDeA : Statement (.ldDeA) := rfl
theorem ldAN16 (n : Word) : Statement (.ldAN16 n) := rfl
theorem ldN16A (n : Word) : Statement (.ldN16A n) := rfl
theorem ldhAC : Statement (.ldhAC) := rfl
theorem ldhCA : Statement (.ldhCA) := rfl
theorem ldhAN8 (n : Byte) : Statement (.ldhAN8 n) := rfl
theorem ldhN8A (n : Byte) : Statement (.ldhN8A n) := rfl
theorem ldAHld : Statement (.ldAHld) := rfl
theorem ldHldA : Statement (.ldHldA) := rfl
theorem ldAHli : Statement (.ldAHli) := rfl
theorem ldHliA : Statement (.ldHliA) := rfl
theorem ldRrN16 (p : Pair) (n : Word) : Statement (.ldRrN16 p n) := by cases p <;> rfl
theorem ldN16Sp (n : Word) : Statement (.ldN16Sp n) := rfl
theorem ldSpHl : Statement (.ldSpHl) := rfl
theorem ldHlSpE8 (e : Byte) : Statement (.ldHlSpE8 e) := rfl
theorem pushRs (q : StackPair) : Statement (.pushRs q) := by cases q <;> rfl
theorem popRs (q : StackPair) : Statement (.popRs q) := by cases q <;> rfl
theorem popAf : Statement (.popAf) := rfl
theorem addAR (r : Reg8) : Statement (.addAR r) := by cases r <;> rfl
theorem addAHl : Statement (.addAHl) := rfl
theorem addAN8 (n : Byte) : Statement (.addAN8 n) := rfl
theorem adcAR (r : Reg8) : Statement (.adcAR r) := by cases r <;> rfl
theorem adcAHl : Statement (.adcAHl) := rfl
theorem adcAN8 (n : Byte) : Statement (.adcAN8 n) := rfl
theorem subAR (r : Reg8) : Statement (.subAR r) := by cases r <;> rfl
theorem subAHl : Statement (.subAHl) := rfl
theorem subAN8 (n : Byte) : Statement (.subAN8 n) := rfl
theorem sbcAR (r : Reg8) : Statement (.sbcAR r) := by cases r <;> rfl
theorem sbcAHl : Statement (.sbcAHl) := rfl
theorem sbcAN8 (n : Byte) : Statement (.sbcAN8 n) := rfl
theorem andAR (r : Reg8) : Statement (.andAR r) := by cases r <;> rfl
theorem andAHl : Statement (.andAHl) := rfl
theorem andAN8 (n : Byte) : Statement (.andAN8 n) := rfl
theorem xorAR (r : Reg8) : Statement (.xorAR r) := by cases r <;> rfl
theorem xorAHl : Statement (.xorAHl) := rfl
theorem xorAN8 (n : Byte) : Statement (.xorAN8 n) := rfl
theorem orAR (r : Reg8) : Statement (.orAR r) := by cases r <;> rfl
theorem orAHl : Statement (.orAHl) := rfl
theorem orAN8 (n : Byte) : Statement (.orAN8 n) := rfl
theorem cpAR (r : Reg8) : Statement (.cpAR r) := by cases r <;> rfl
theorem cpAHl : Statement (.cpAHl) := rfl
theorem cpAN8 (n : Byte) : Statement (.cpAN8 n) := rfl
theorem incR (r : Reg8) : Statement (.incR r) := by cases r <;> rfl
theorem incHl : Statement (.incHl) := rfl
theorem decR (r : Reg8) : Statement (.decR r) := by cases r <;> rfl
theorem decHl : Statement (.decHl) := rfl
theorem daa : Statement (.daa) := rfl
theorem cpl : Statement (.cpl) := rfl
theorem scf : Statement (.scf) := rfl
theorem ccf : Statement (.ccf) := rfl
theorem addHlRr (p : Pair) : Statement (.addHlRr p) := by cases p <;> rfl
theorem incRr (p : Pair) : Statement (.incRr p) := by cases p <;> rfl
theorem decRr (p : Pair) : Statement (.decRr p) := by cases p <;> rfl
theorem addSpE8 (e : Byte) : Statement (.addSpE8 e) := rfl
theorem rlca : Statement (.rlca) := rfl
theorem rrca : Statement (.rrca) := rfl
theorem rla : Statement (.rla) := rfl
theorem rra : Statement (.rra) := rfl
theorem jpN16 (n : Word) : Statement (.jpN16 n) := rfl
theorem jpCcN16 (cc : Cond) (n : Word) : Statement (.jpCcN16 cc n) := by cases cc <;> rfl
theorem jpHl : Statement (.jpHl) := rfl
theorem jrE8 (e : Byte) : Statement (.jrE8 e) := rfl
theorem jrCcE8 (cc : Cond) (e : Byte) : Statement (.jrCcE8 cc e) := by cases cc <;> rfl
theorem callN16 (n : Word) : Statement (.callN16 n) := rfl
theorem callCcN16 (cc : Cond) (n : Word) : Statement (.callCcN16 cc n) := by cases cc <;> rfl
theorem ret : Statement (.ret) := rfl
theorem retCc (cc : Cond) : Statement (.retCc cc) := by cases cc <;> rfl
theorem reti : Statement (.reti) := rfl
theorem rstT (t : BitVec 3) : Statement (.rstT t) := by rcases bits3 t with rfl | rfl | rfl | rfl | rfl | rfl | rfl | rfl <;> rfl
theorem nop : Statement (.nop) := rfl
theorem halt : Statement (.halt) := rfl
theorem stop : Statement (.stop) := rfl
theorem di : Statement (.di) := rfl
theorem ei : Statement (.ei) := rfl
theorem cbPrefix (op2 : Byte) : Statement (.cbPrefix op2) := rfl
theorem illegalD3 : Statement (.illegalD3) := rfl
theorem illegalDB : Statement (.illegalDB) := rfl
theorem illegalDD : Statement (.illegalDD) := rfl
theorem illegalE3 : Statement (.illegalE3) := rfl
theorem illegalE4 : Statement (.illegalE4) := rfl
theorem illegalEB : Statement (.illegalEB) := rfl
theorem illegalEC : Statement (.illegalEC) := rfl
theorem illegalED : Statement (.illegalED) := rfl
theorem illegalF4 : Statement (.illegalF4) := rfl
theorem illegalFC : Statement (.illegalFC) := rfl
theorem illegalFD : Statement (.illegalFD) := rfl
theorem rlcR (r : Reg8) : Statement (.rlcR r) := by cases r <;> rfl
theorem rlcHl : Statement (.rlcHl) := rfl
theorem rrcR (r : Reg8) : Statement (.rrcR r) := by cases r <;> rfl
theorem rrcHl : Statement (.rrcHl) := rfl
theorem rlR (r : Reg8) : Statement (.rlR r) := by cases r <;> rfl
theorem rlHl : Statement (.rlHl) := rfl
theorem rrR (r : Reg8) : Statement (.rrR r) := by cases r <;> rfl
theorem rrHl : Statement (.rrHl) := rfl
theorem slaR (r : Reg8) : Statement (.slaR r) := by cases r <;> rfl
theorem slaHl : Statement (.slaHl) := rfl
theorem sraR (r : Reg8) : Statement (.sraR r) := by cases r <;> rfl
theorem sraHl : Statement (.sraHl) := rfl
theorem swapR (r : Reg8) : Statement (.swapR r) := by cases r <;> rfl
theorem swapHl : Statement (.swapHl) := rfl
theorem srlR (r : Reg8) : Statement (.srlR r) := by cases r <;> rfl
theorem srlHl : Statement (.srlHl) := rfl
theorem bitBR (b : BitVec 3) (r : Reg8) : Statement (.bitBR b r) := rfl
theorem bitBHl (b : BitVec 3) : Statement (.bitBHl b) := rfl
theorem resBR (b : BitVec 3) (r : Reg8) : Statement (.resBR b r) := rfl
theorem resBHl (b : BitVec 3) : Statement (.resBHl b) := rfl
theorem setBR (b : BitVec 3) (r : Reg8) : Statement (.setBR b r) := rfl
theorem setBHl (b : BitVec 3) : Statement (.setBHl b) := rfl
theorem intVblank : Statement (.intVblank) := rfl
theorem intStat : Statement (.intStat) := rfl
theorem intTimer : Statement (.intTimer) := rfl
theorem intSerial : Statement (.intSerial) := rfl
theorem intJoypad : Statement (.intJoypad) := rfl

end Sys2Proof.Laws.Length
end

