-- ==== Sys2Proof/Laws/Units.lean ====
section
/-! SUPPORT. Which parts of the state each unit's step can change, said once for each as an equation: everything an equation does
not name stays. -/

namespace Sys2Proof.Machine

/-! ## The bus step -/

theorem timerReload_parts (s : State) :
    timerReload s = { s with mem := (timerReload s).mem, timer := (timerReload s).timer, iflag := (timerReload s).iflag } := by
  unfold timerReload; split <;> rfl

theorem timerIncrement_parts (s : State) :
    timerIncrement s = { s with mem := (timerIncrement s).mem, timer := (timerIncrement s).timer } := by
  unfold timerIncrement; split <;> rfl

theorem timerEdge_parts (s : State) :
    timerEdge s = { s with mem := (timerEdge s).mem, timer := (timerEdge s).timer } := by
  unfold timerEdge
  simp only
  split
  · rw [timerIncrement_parts s]
  · rfl

/-- The timer changes its registers, its own state and the request flags. -/
theorem timerStep_parts (s : State) :
    timerStep s = { s with mem := (timerStep s).mem, timer := (timerStep s).timer, iflag := (timerStep s).iflag } := by
  unfold timerStep
  rw [timerEdge_parts (divStep (timerReload s))]
  unfold divStep
  rw [timerReload_parts s]

theorem observe_parts (s : State) (a : Word) : observe s a = { s with rtc := (observe s a).rtc } := by
  unfold observe; split <;> rfl

/-- OAM DMA changes OAM and its own state, and may observe the clock. -/
theorem oamDmaStep_parts (s : State) :
    oamDmaStep s = { s with mem := (oamDmaStep s).mem, rtc := (oamDmaStep s).rtc, dma := (oamDmaStep s).dma } := by
  unfold oamDmaStep
  split
  · simp only; rw [observe_parts]; rfl
  · rfl

/-- The joypad changes its own state and the request flags. -/
theorem joypadStep_parts (s : State) :
    joypadStep s = { s with joy := (joypadStep s).joy, iflag := (joypadStep s).iflag } := by
  unfold joypadStep State.requestIf
  simp only
  split <;> rfl

/-- The parts of the state the bus step can change. -/
theorem busStep_parts (s : State) :
    busStep s = { s with
      mem := (busStep s).mem, timer := (busStep s).timer, iflag := (busStep s).iflag, rtc := (busStep s).rtc
      dma := (busStep s).dma, joy := (busStep s).joy } := by
  unfold busStep
  rw [joypadStep_parts (oamDmaStep (timerStep s)), oamDmaStep_parts (timerStep s), timerStep_parts s]

/-! ## The audio step -/

theorem onDivisor_parts {f : State → State} (hf : ∀ s, f s = { s with mem := (f s).mem, audio := (f s).audio })
    (dv : Nat) (s : State) :
    onDivisor dv f s = { s with mem := (onDivisor dv f s).mem, audio := (onDivisor dv f s).audio } := by
  unfold onDivisor; split
  · exact hf s
  · rfl

theorem sweepFire_parts (s : State) :
    sweepFire s = { s with mem := (sweepFire s).mem, audio := (sweepFire s).audio } := by
  unfold sweepFire setPeriod1; simp only; split
  · rfl
  · split <;> rfl

theorem sweepStep_parts (s : State) :
    sweepStep s = { s with mem := (sweepStep s).mem, audio := (sweepStep s).audio } := by
  unfold sweepStep; simp only; split
  · rfl
  · split
    · rw [sweepFire_parts]
    · rfl

theorem sequencerTick_parts (s : State) :
    sequencerTick s = { s with mem := (sequencerTick s).mem, audio := (sequencerTick s).audio } := by
  unfold sequencerTick
  simp only
  rw [onDivisor_parts (f := envelopeStep) (fun _ => rfl) Config.frameSeqPeriod, onDivisor_parts sweepStep_parts s.cfg.sweepDiv,
    onDivisor_parts (f := lengthStep) (fun _ => rfl) s.cfg.lenDiv]

/-- The audio step changes the audio unit and, through the sweep, channel 1's period registers. -/
theorem audioStep_parts (s : State) :
    audioStep s = { s with mem := (audioStep s).mem, audio := (audioStep s).audio } := by
  unfold audioStep sampleTick channelsTick
  simp only
  rw [sequencerTick_parts s]

/-! ## The video step -/

theorem requestIf_parts (s : State) (b : Bool) (q : Irq) :
    s.requestIf b q = { s with iflag := (s.requestIf b q).iflag } := by
  unfold State.requestIf; split <;> rfl

theorem hdmaCopy_parts (src dst : Word) (n k : Nat) (s : State) :
    hdmaCopy src dst n k s = { s with mem := (hdmaCopy src dst n k s).mem, rtc := (hdmaCopy src dst n k s).rtc } := by
  induction n generalizing k s with
  | zero => rfl
  | succ n ih =>
    unfold hdmaCopy
    simp only
    rw [ih, observe_parts]
    rfl

/-- A block of an HBlank transfer changes video RAM and the transfer's own state, and may observe the clock. -/
theorem hblankDma_parts (s : State) :
    hblankDma s = { s with mem := (hblankDma s).mem, rtc := (hblankDma s).rtc, hdma := (hblankDma s).hdma } := by
  unfold hblankDma; split
  · simp only; rw [hdmaCopy_parts]
  · rfl

theorem lineCompare_parts (s : State) :
    lineCompare s = { s with mem := (lineCompare s).mem, iflag := (lineCompare s).iflag } := by
  unfold lineCompare; simp only; rw [requestIf_parts]; rfl

theorem newFrame_parts (v : Video) : newFrame v = { v with
    winLine := (newFrame v).winLine, bgPriority := (newFrame v).bgPriority, bgDrawn := (newFrame v).bgDrawn } := by
  unfold newFrame; split <;> rfl

theorem visibleLineStart_parts (s : State) :
    visibleLineStart s = { s with
      mem := (visibleLineStart s).mem, iflag := (visibleLineStart s).iflag, video := (visibleLineStart s).video } := by
  unfold visibleLineStart setMode; simp only; rw [requestIf_parts, lineCompare_parts]; rfl

theorem vblankLineStart_parts (s : State) :
    vblankLineStart s = { s with mem := (vblankLineStart s).mem, iflag := (vblankLineStart s).iflag } := by
  unfold vblankLineStart setMode; simp only; rw [lineCompare_parts]
  split
  · rw [requestIf_parts]; rfl
  · rfl

theorem hblank_parts (s : State) :
    hblank s = { s with
      mem := (hblank s).mem, iflag := (hblank s).iflag, rtc := (hblank s).rtc, hdma := (hblank s).hdma
      video := (hblank s).video } := by
  unfold hblank setMode; simp only; rw [requestIf_parts, hblankDma_parts]; rfl

theorem videoAct_parts (s : State) :
    videoAct s = { s with
      mem := (videoAct s).mem, iflag := (videoAct s).iflag, rtc := (videoAct s).rtc, hdma := (videoAct s).hdma
      video := (videoAct s).video } := by
  unfold videoAct
  split
  · split
    · rw [visibleLineStart_parts]
    · split
      · rfl
      · split
        · rw [hblank_parts]
        · split <;> rfl
  · split
    · rw [vblankLineStart_parts]
    · rfl

/-- The video step changes its registers, the request flags, the buffer and counters of the video unit and, through the service
of an HBlank transfer, video RAM and the transfer's state. -/
theorem videoStep_parts (s : State) :
    videoStep s = { s with
      mem := (videoStep s).mem, iflag := (videoStep s).iflag, rtc := (videoStep s).rtc, hdma := (videoStep s).hdma
      video := (videoStep s).video } := by
  unfold videoStep
  split
  · unfold videoAdvance; rw [videoAct_parts]; split <;> rfl
  · rfl

/-! ## The frame call -/

/-- The first tick of a frame call takes the host's mask. -/
theorem beginFrame_parts (s : State) :
    beginFrame s = { s with joy := (beginFrame s).joy, session := (beginFrame s).session } := by
  unfold beginFrame takeMask; split <;> rfl

/-- The end of a tick counts it, and at the end of the frame hands out the samples. -/
theorem endTick_parts (s : State) :
    endTick s = { s with audio := (endTick s).audio, session := (endTick s).session } := by
  unfold endTick; split <;> rfl

/-- The frame call in which the clock stops is counted as one that ends. -/
theorem endIfStopped_parts (s : State) :
    endIfStopped s = { s with audio := (endIfStopped s).audio, session := (endIfStopped s).session } := by
  unfold endIfStopped; split <;> rfl

/-- The buffer of pairs has its fixed size. -/
@[simp] theorem length_bufferPairs (s : State) : (bufferPairs s).length = s.cfg.samplesPerFrame := by
  simp only [bufferPairs, List.length_take, List.length_append, List.length_replicate]; omega

/-- After a tick in which the clock stopped no frame call is under way. -/
theorem endIfStopped_boundary {s : State} (h : clockStopped (endIfStopped s) = true) :
    (endIfStopped s).session.frameTick = 0 := by
  by_cases hs : clockStopped s = true
  · unfold endIfStopped; rw [if_pos hs]; rfl
  · unfold endIfStopped at h; rw [if_neg hs] at h; exact absurd h hs

theorem beginFrame_frameTick (s : State) : (beginFrame s).session.frameTick = s.session.frameTick := by
  unfold beginFrame takeMask; split <;> rfl

end Sys2Proof.Machine
end

