-- ==== Sys2Proof/Tests/Slice0.lean ====
section
/-! SUPPORT. The model's own tests. Expected results are the vectors of spec/95_test_vectors.md (T…) and the examples of the
instruction rules (R…), named above each test; the last part has, for every statement with hypotheses, a state and operands that
meet them. -/

namespace Sys2Proof.Tests

set_option Elab.async false

open Sys2Proof Sys2Proof.Machine

/-! ## WellFormed -/

theorem test_popRs_af_refused : (Instr.popRs .af).illFormed = some .popOfAf ∧ (Instr.popRs .af).WellFormed = false := by decide

theorem test_popRs_bc_accepted : (Instr.popRs .bc).WellFormed = true ∧ Instr.popAf.WellFormed = true := by decide

/-! ## Decoding: words written out from 30_encoding.md rules R124 to R130

The first byte is in bits 7 to 0 of the word, the second in bits 15 to 8. -/

/-- Each word with its number of bits decodes to the instruction beside it. -/
abbrev Decodes (rows : List (Nat × Nat × Instr)) : Prop := ∀ r ∈ rows, decodeTableWord r.1 r.2.1 = some r.2.2

theorem test_decode_load8 : Decodes
    [(8, 0b01000001, .ldRR .b .c), (8, 0b01111010, .ldRR .a .d), (16, 0x9C00 + 0b00010110, .ldRN8 .d 0x9C),
     (8, 0b01111110, .ldRHl .a), (8, 0b01110100, .ldHlR .h), (16, 0x5A00 + 0b00110110, .ldHlN8 0x5A),
     (8, 0x0A, .ldABc), (8, 0x1A, .ldADe), (8, 0x02, .ldBcA), (8, 0x12, .ldDeA), (24, 0xC130FA, .ldAN16 0xC130),
     (24, 0xC140EA, .ldN16A 0xC140), (8, 0xF2, .ldhAC), (8, 0xE2, .ldhCA), (16, 0x80F0, .ldhAN8 0x80),
     (16, 0x80E0, .ldhN8A 0x80), (8, 0x3A, .ldAHld), (8, 0x32, .ldHldA), (8, 0x2A, .ldAHli), (8, 0x22, .ldHliA)] := by
  decide +kernel

theorem test_decode_load16 : Decodes
    [(24, 0x123400 + 0b00000001, .ldRrN16 .bc 0x1234), (24, 0xFFFE00 + 0b00110001, .ldRrN16 .sp 0xFFFE),
     (24, 0xC10008, .ldN16Sp 0xC100), (8, 0xF9, .ldSpHl), (16, 0xFFF8, .ldHlSpE8 0xFF), (8, 0b11000101, .pushRs .bc),
     (8, 0b11110101, .pushRs .af), (8, 0b11010001, .popRs .de), (8, 0b11110001, .popAf)] := by
  decide +kernel

theorem test_decode_alu_registers : Decodes
    [(8, 0b10000000, .addAR .b), (8, 0b10000110, .addAHl), (8, 0b10001011, .adcAR .e), (8, 0b10001110, .adcAHl),
     (8, 0b10010001, .subAR .c), (8, 0b10010110, .subAHl), (8, 0b10011100, .sbcAR .h), (8, 0b10011110, .sbcAHl),
     (8, 0b10100010, .andAR .d), (8, 0b10100110, .andAHl), (8, 0b10101111, .xorAR .a), (8, 0b10101110, .xorAHl),
     (8, 0b10110101, .orAR .l), (8, 0b10110110, .orAHl), (8, 0b10111000, .cpAR .b), (8, 0b10111110, .cpAHl)] := by
  decide +kernel

theorem test_decode_alu_rest : Decodes
    [(16, 0x0100 + 0b11000110, .addAN8 1), (16, 0x0200 + 0b11001110, .adcAN8 2), (16, 0x0300 + 0b11010110, .subAN8 3),
     (16, 0x0400 + 0b11011110, .sbcAN8 4), (16, 0x0500 + 0b11100110, .andAN8 5), (16, 0x0600 + 0b11101110, .xorAN8 6),
     (16, 0x0700 + 0b11110110, .orAN8 7), (16, 0x0800 + 0b11111110, .cpAN8 8), (8, 0b00111100, .incR .a), (8, 0x34, .incHl),
     (8, 0b00000101, .decR .b), (8, 0x35, .decHl), (8, 0x27, .daa), (8, 0x2F, .cpl), (8, 0x37, .scf), (8, 0x3F, .ccf),
     (8, 0b00101001, .addHlRr .hl), (8, 0b00110011, .incRr .sp), (8, 0b00011011, .decRr .de), (16, 0x80E8, .addSpE8 0x80),
     (8, 0x07, .rlca), (8, 0x0F, .rrca), (8, 0x17, .rla), (8, 0x1F, .rra)] := by
  decide +kernel

theorem test_decode_control : Decodes
    [(24, 0x1234C3, .jpN16 0x1234), (24, 0x123400 + 0b11000010, .jpCcN16 .nz 0x1234),
     (24, 0x123400 + 0b11011010, .jpCcN16 .c 0x1234), (8, 0xE9, .jpHl), (16, 0xFE18, .jrE8 0xFE),
     (16, 0x0200 + 0b00101000, .jrCcE8 .z 2), (16, 0xFC00 + 0b00110000, .jrCcE8 .nc 0xFC), (24, 0x1234CD, .callN16 0x1234),
     (24, 0x123400 + 0b11010100, .callCcN16 .nc 0x1234), (8, 0xC9, .ret), (8, 0b11010000, .retCc .nc), (8, 0xD9, .reti),
     (8, 0b11101111, .rstT 5), (8, 0b11111111, .rstT 7)] := by
  decide +kernel

theorem test_decode_system : Decodes
    [(8, 0x00, .nop), (8, 0x76, .halt), (16, 0x0010, .stop), (16, 0xFF10, .stop), (8, 0xF3, .di), (8, 0xFB, .ei),
     (8, 0xD3, .illegalD3), (8, 0xDB, .illegalDB), (8, 0xDD, .illegalDD), (8, 0xE3, .illegalE3), (8, 0xE4, .illegalE4),
     (8, 0xEB, .illegalEB), (8, 0xEC, .illegalEC), (8, 0xED, .illegalED), (8, 0xF4, .illegalF4), (8, 0xFC, .illegalFC),
     (8, 0xFD, .illegalFD)] := by
  decide +kernel

theorem test_decode_secondary : Decodes
    [(16, 0b00000000 * 256 + 0xCB, .rlcR .b), (16, 0x06CB, .rlcHl), (16, 0b00001001 * 256 + 0xCB, .rrcR .c),
     (16, 0x0ECB, .rrcHl), (16, 0b00010010 * 256 + 0xCB, .rlR .d), (16, 0x16CB, .rlHl),
     (16, 0b00011011 * 256 + 0xCB, .rrR .e), (16, 0x1ECB, .rrHl), (16, 0b00100100 * 256 + 0xCB, .slaR .h),
     (16, 0x26CB, .slaHl), (16, 0b00101101 * 256 + 0xCB, .sraR .l), (16, 0x2ECB, .sraHl),
     (16, 0b00110111 * 256 + 0xCB, .swapR .a), (16, 0x36CB, .swapHl), (16, 0b00111000 * 256 + 0xCB, .srlR .b),
     (16, 0x3ECB, .srlHl), (16, 0b01111100 * 256 + 0xCB, .bitBR 7 .h), (16, 0b01111110 * 256 + 0xCB, .bitBHl 7),
     (16, 0b10001101 * 256 + 0xCB, .resBR 1 .l), (16, 0b10011110 * 256 + 0xCB, .resBHl 3),
     (16, 0b11011011 * 256 + 0xCB, .setBR 3 .e), (16, 0b11111110 * 256 + 0xCB, .setBHl 7)] := by
  decide +kernel

/-- The first instruction after reset is the one placed. -/
theorem test_placed_word_runs :
    (match step (State.reset.withFetchWord 24 0x1234C3) with
      | .next t => decide (t.cpu.pc = 0x1234)
      | _ => false) = true := by
  decide +kernel

/-! ## One instruction, one step -/

/-- The registers as the vectors print them; the defaults are those of the vectors' start state. -/
structure Regs where
  a : Byte := 0
  f : Byte := 0
  b : Byte := 0
  c : Byte := 0
  d : Byte := 0
  e : Byte := 0
  h : Byte := 0
  l : Byte := 0
  sp : Word := 0xDFFF
  pc : Word := 0xC000
  deriving DecidableEq, Repr

/-- The registers of a state. -/
def regsOf (c : Cpu) : Regs :=
  { a := c.a, f := c.f.toByte, b := c.b, c := c.c, d := c.d, e := c.e, h := c.h, l := c.l, sp := c.sp, pc := c.pc }

/-- Bytes stored by the bus. -/
def poke : List (Word × Byte) → State → State
  | [], s => s
  | (a, v) :: rest, s => poke rest (busWrite a v s)

/-- Bytes stored from an address up. -/
def pokeFrom (a : Word) : List Byte → State → State
  | [], s => s
  | v :: rest, s => pokeFrom (a + 1) rest (busWrite a v s)

/-- The start state of the vectors: no boot ROM mapped, inside a frame, the registers `r`. -/
def start (r : Regs) : State :=
  let s := resetWith { Params.default with boot := .absent } Init.default
  { s with
      session := { s.session with frameTick := 1 }
      cpu := { s.cpu with
        a := r.a, f := Flags.ofByte r.f, b := r.b, c := r.c, d := r.d, e := r.e, h := r.h, l := r.l, sp := r.sp
        pc := r.pc } }

/-- The state after a step; the same state if there is none. -/
def after (s : State) : State :=
  match step s with
  | .next t => t
  | _ => s

/-- The instruction `bytes` at `pc`, started with the registers `r` and the memory `m`, leaves the registers `r'`, lasts `ticks`
and leaves the bytes `reads`. -/
abbrev Gives (bytes : List Byte) (r : Regs) (m : List (Word × Byte)) (r' : Regs) (ticks : Nat)
    (reads : List (Word × Byte)) : Prop :=
  let t := after (poke m (pokeFrom r.pc bytes (start r)))
  (regsOf t.cpu, t.cpu.dur, reads.map (fun p => (p.1, peek t p.1))) = (r', ticks, reads)

/-! ### 8-bit loads -/

-- T40-1
theorem test_ldRR : Gives [0x41] { c := 0x7E } [] { b := 0x7E, c := 0x7E, pc := 0xC001 } 4 [] := by decide +kernel

-- R151 example
theorem test_ldRN8 : Gives [0x16, 0x9C] {} [] { d := 0x9C, pc := 0xC002 } 8 [] := by decide +kernel

-- T40-5
theorem test_ldRHl :
    Gives [0x7E] { h := 0xC1, l := 0x00 } [(0xC100, 0x99)]
      { a := 0x99, h := 0xC1, l := 0x00, pc := 0xC001 } 8 [] := by decide +kernel

-- T40-7
theorem test_ldHlR :
    Gives [0x74] { h := 0xC1, l := 0x02 } []
      { h := 0xC1, l := 0x02, pc := 0xC001 } 8 [(0xC102, 0xC1)] := by decide +kernel

-- T40-4
theorem test_ldHlN8 :
    Gives [0x36, 0x5A] { h := 0xC1, l := 0x00 } []
      { h := 0xC1, l := 0x00, pc := 0xC002 } 12 [(0xC100, 0x5A)] := by decide +kernel

-- T40-8
theorem test_ldABc :
    Gives [0x0A] { b := 0xC1, c := 0x10 } [(0xC110, 0x21)]
      { a := 0x21, b := 0xC1, c := 0x10, pc := 0xC001 } 8 [] := by decide +kernel

-- R156 example
theorem test_ldADe :
    Gives [0x1A] { d := 0xC1, e := 0x03 } [(0xC103, 0x44)]
      { a := 0x44, d := 0xC1, e := 0x03, pc := 0xC001 } 8 [] := by decide +kernel

-- R157 example
theorem test_ldBcA :
    Gives [0x02] { a := 0x55, b := 0xC1, c := 0x02 } []
      { a := 0x55, b := 0xC1, c := 0x02, pc := 0xC001 } 8 [(0xC102, 0x55)] := by decide +kernel

-- T40-9
theorem test_ldDeA :
    Gives [0x12] { a := 0x33, d := 0xC1, e := 0x20 } []
      { a := 0x33, d := 0xC1, e := 0x20, pc := 0xC001 } 8 [(0xC120, 0x33)] := by decide +kernel

-- T40-10
theorem test_ldAN16 : Gives [0xFA, 0x30, 0xC1] {} [(0xC130, 0x44)] { a := 0x44, pc := 0xC003 } 16 [] := by decide +kernel

-- T40-11
theorem test_ldN16A :
    Gives [0xEA, 0x40, 0xC1] { a := 0x55 } []
      { a := 0x55, pc := 0xC003 } 16 [(0xC140, 0x55)] := by decide +kernel

-- T40-15
theorem test_ldhAC :
    Gives [0xF2] { c := 0x82 } [(0xFF82, 0x67)]
      { a := 0x67, c := 0x82, pc := 0xC001 } 8 [] := by decide +kernel

-- T40-14
theorem test_ldhCA :
    Gives [0xE2] { a := 0x66, c := 0x81 } []
      { a := 0x66, c := 0x81, pc := 0xC001 } 8 [(0xFF81, 0x66)] := by decide +kernel

-- T40-13
theorem test_ldhAN8 : Gives [0xF0, 0x80] {} [(0xFF80, 0x24)] { a := 0x24, pc := 0xC002 } 12 [] := by decide +kernel

-- T40-20
theorem test_ldhAN8_if : Gives [0xF0, 0x0F] {} [(0xFF0F, 0x05)] { a := 0xE5, pc := 0xC002 } 12 [] := by decide +kernel

-- T40-12
theorem test_ldhN8A : Gives [0xE0, 0x80] { a := 0x42 } [] { a := 0x42, pc := 0xC002 } 12 [(0xFF80, 0x42)] := by decide +kernel

-- T40-19
theorem test_ldAHld :
    Gives [0x3A] { h := 0xC1, l := 0x00 } [(0xC100, 0x9A)]
      { a := 0x9A, h := 0xC0, l := 0xFF, pc := 0xC001 } 8 [] := by decide +kernel

-- T40-18
theorem test_ldHldA :
    Gives [0x32] { a := 0x22, h := 0xC2, l := 0x00 } []
      { a := 0x22, h := 0xC1, l := 0xFF, pc := 0xC001 } 8 [(0xC200, 0x22)] := by decide +kernel

-- T40-17
theorem test_ldAHli :
    Gives [0x2A] { h := 0xFF, l := 0xFF } [(0xFFFF, 0x1F)]
      { a := 0x1F, pc := 0xC001 } 8 [] := by decide +kernel

-- T40-16
theorem test_ldHliA :
    Gives [0x22] { a := 0x11, h := 0xC1, l := 0xFF } []
      { a := 0x11, h := 0xC2, l := 0x00, pc := 0xC001 } 8 [(0xC1FF, 0x11)] := by decide +kernel

/-! ### 16-bit loads and the stack -/

-- T41-1
theorem test_ldRrN16 : Gives [0x01, 0x34, 0x12] {} [] { b := 0x12, c := 0x34, pc := 0xC003 } 12 [] := by decide +kernel

-- T41-2
theorem test_ldRrN16_sp : Gives [0x31, 0xFE, 0xFF] {} [] { sp := 0xFFFE, pc := 0xC003 } 12 [] := by decide +kernel

-- T41-3
theorem test_ldN16Sp :
    Gives [0x08, 0x00, 0xC1] {} []
      { pc := 0xC003 } 20 [(0xC100, 0xFF), (0xC101, 0xDF)] := by decide +kernel

-- T41-4
theorem test_ldSpHl :
    Gives [0xF9] { h := 0xD1, l := 0x23 } []
      { h := 0xD1, l := 0x23, sp := 0xD123, pc := 0xC001 } 8 [] := by decide +kernel

-- T41-5
theorem test_ldHlSpE8 :
    Gives [0xF8, 0x02] { f := 0x80, sp := 0xFFFE } []
      { f := 0x30, sp := 0xFFFE, pc := 0xC002 } 12 [] := by decide +kernel

-- T41-6
theorem test_ldHlSpE8_neg :
    Gives [0xF8, 0xFF] { sp := 0x0000 } []
      { h := 0xFF, l := 0xFF, sp := 0x0000, pc := 0xC002 } 12 [] := by decide +kernel

-- T41-12
theorem test_pushRs :
    Gives [0xC5] { b := 0x1F, c := 0x34, sp := 0x0000 } []
      { b := 0x1F, c := 0x34, sp := 0xFFFE, pc := 0xC001 } 16 [(0xFFFF, 0x1F), (0xFFFE, 0x34)] := by decide +kernel

-- T41-11
theorem test_pushRs_af :
    Gives [0xF5] { a := 0x9C, f := 0xB0 } []
      { a := 0x9C, f := 0xB0, sp := 0xDFFD, pc := 0xC001 } 16 [(0xDFFE, 0x9C), (0xDFFD, 0xB0)] := by decide +kernel

-- T41-9
theorem test_popRs :
    Gives [0xD1] { sp := 0xDFF0 } [(0xDFF0, 0xCD), (0xDFF1, 0xAB)]
      { d := 0xAB, e := 0xCD, sp := 0xDFF2, pc := 0xC001 } 12 [] := by decide +kernel

-- T41-10
theorem test_popAf :
    Gives [0xF1] { sp := 0xDFF0 } [(0xDFF0, 0xFF), (0xDFF1, 0x12)]
      { a := 0x12, f := 0xF0, sp := 0xDFF2, pc := 0xC001 } 12 [] := by decide +kernel

/-! ### 8-bit arithmetic and logic -/

-- T42-1
theorem test_addAR :
    Gives [0x80] { a := 0x3A, b := 0xC6 } []
      { a := 0x00, b := 0xC6, f := 0xB0, pc := 0xC001 } 4 [] := by decide +kernel

-- T42-3
theorem test_addAR_self : Gives [0x87] { a := 0x80 } [] { f := 0x90, pc := 0xC001 } 4 [] := by decide +kernel

-- T42-4
theorem test_addAHl :
    Gives [0x86] { a := 0x3C, h := 0xC1, l := 0x00 } [(0xC100, 0x12)]
      { a := 0x4E, h := 0xC1, l := 0x00, pc := 0xC001 } 8 [] := by decide +kernel

-- T42-5
theorem test_addAN8 : Gives [0xC6, 0xFF] { a := 0x3C } [] { a := 0x3B, f := 0x30, pc := 0xC002 } 8 [] := by decide +kernel

-- T42-7
theorem test_adcAR :
    Gives [0x88] { f := 0x10, b := 0xFF } []
      { a := 0x00, b := 0xFF, f := 0xB0, pc := 0xC001 } 4 [] := by decide +kernel

-- T42-9
theorem test_adcAR_half :
    Gives [0x8B] { a := 0xE1, f := 0x10, e := 0x0F } []
      { a := 0xF1, f := 0x20, e := 0x0F, pc := 0xC001 } 4 [] := by decide +kernel

-- R197 example
theorem test_adcAHl :
    Gives [0x8E] { a := 0xE1, f := 0x10, h := 0xC1, l := 0x00 } [(0xC100, 0x1E)]
      { a := 0x00, f := 0xB0, h := 0xC1, l := 0x00, pc := 0xC001 } 8 [] := by decide +kernel

-- T42-8
theorem test_adcAN8 :
    Gives [0xCE, 0x00] { a := 0x0F, f := 0x10 } []
      { a := 0x10, f := 0x20, pc := 0xC002 } 8 [] := by decide +kernel

-- T42-13
theorem test_subAR :
    Gives [0x90] { a := 0x3E, b := 0x0F } []
      { a := 0x2F, b := 0x0F, f := 0x60, pc := 0xC001 } 4 [] := by decide +kernel

-- T42-12
theorem test_subAHl :
    Gives [0x96] { a := 0x3E, h := 0xC1, l := 0x00 } [(0xC100, 0x40)]
      { a := 0xFE, f := 0x50, h := 0xC1, l := 0x00, pc := 0xC001 } 8 [] := by decide +kernel

-- T42-11
theorem test_subAN8 : Gives [0xD6, 0x01] {} [] { a := 0xFF, f := 0x70, pc := 0xC002 } 8 [] := by decide +kernel

-- T42-15
theorem test_sbcAR :
    Gives [0x98] { a := 0x10, f := 0x10, b := 0x0F } []
      { a := 0x00, b := 0x0F, f := 0xE0, pc := 0xC001 } 4 [] := by decide +kernel

-- R203 example
theorem test_sbcAHl :
    Gives [0x9E] { a := 0x3B, f := 0x10, h := 0xC1, l := 0x00 } [(0xC100, 0x4F)]
      { a := 0xEB, f := 0x70, h := 0xC1, l := 0x00, pc := 0xC001 } 8 [] := by decide +kernel

-- T42-16
theorem test_sbcAN8 : Gives [0xDE, 0xFF] { f := 0x10 } [] { f := 0xF0, pc := 0xC002 } 8 [] := by decide +kernel

-- T42-19
theorem test_andAR :
    Gives [0xA0] { a := 0xF0, f := 0x10, b := 0x0F } []
      { a := 0x00, b := 0x0F, f := 0xA0, pc := 0xC001 } 4 [] := by decide +kernel

-- R206 example
theorem test_andAHl :
    Gives [0xA6] { a := 0x5A, h := 0xC1, l := 0x00 } [(0xC100, 0x00)]
      { a := 0x00, f := 0xA0, h := 0xC1, l := 0x00, pc := 0xC001 } 8 [] := by decide +kernel

-- T42-18
theorem test_andAN8 :
    Gives [0xE6, 0x3F] { a := 0x5A, f := 0x50 } []
      { a := 0x1A, f := 0x20, pc := 0xC002 } 8 [] := by decide +kernel

-- T42-20
theorem test_xorAR : Gives [0xAF] { a := 0x5A, f := 0xF0 } [] { f := 0x80, pc := 0xC001 } 4 [] := by decide +kernel

-- R209 example
theorem test_xorAHl :
    Gives [0xAE] { a := 0xFF, h := 0xC1, l := 0x00 } [(0xC100, 0x8A)]
      { a := 0x75, h := 0xC1, l := 0x00, pc := 0xC001 } 8 [] := by decide +kernel

-- T42-21
theorem test_xorAN8 : Gives [0xEE, 0x0F] { a := 0xFF } [] { a := 0xF0, pc := 0xC002 } 8 [] := by decide +kernel

-- T42-22
theorem test_orAR : Gives [0xB1] { f := 0x70 } [] { f := 0x80, pc := 0xC001 } 4 [] := by decide +kernel

-- T42-23
theorem test_orAHl :
    Gives [0xB6] { a := 0x5A, h := 0xC1, l := 0x00 } [(0xC100, 0x0F)]
      { a := 0x5F, h := 0xC1, l := 0x00, pc := 0xC001 } 8 [] := by decide +kernel

-- R213 example
theorem test_orAN8 : Gives [0xF6, 0x03] { a := 0x5A } [] { a := 0x5B, pc := 0xC002 } 8 [] := by decide +kernel

-- T42-24
theorem test_cpAR :
    Gives [0xB8] { a := 0x3C, b := 0x3C } []
      { a := 0x3C, b := 0x3C, f := 0xC0, pc := 0xC001 } 4 [] := by decide +kernel

-- R215 example
theorem test_cpAHl :
    Gives [0xBE] { a := 0x3C, h := 0xC1, l := 0x00 } [(0xC100, 0x40)]
      { a := 0x3C, f := 0x50, h := 0xC1, l := 0x00, pc := 0xC001 } 8 [] := by decide +kernel

-- T42-26
theorem test_cpAN8 : Gives [0xFE, 0x2F] { a := 0x3C } [] { a := 0x3C, f := 0x60, pc := 0xC002 } 8 [] := by decide +kernel

-- T42-27
theorem test_incR : Gives [0x3C] { a := 0xFF, f := 0x10 } [] { f := 0xB0, pc := 0xC001 } 4 [] := by decide +kernel

-- T42-28
theorem test_incR_half :
    Gives [0x04] { f := 0xC0, b := 0x0F } []
      { f := 0x20, b := 0x10, pc := 0xC001 } 4 [] := by decide +kernel

-- T42-29
theorem test_incHl :
    Gives [0x34] { h := 0xC1, l := 0x00 } [(0xC100, 0x4F)]
      { f := 0x20, h := 0xC1, l := 0x00, pc := 0xC001 } 12 [(0xC100, 0x50)] := by decide +kernel

-- T42-30
theorem test_decR : Gives [0x05] { f := 0x10, b := 0x01 } [] { f := 0xD0, pc := 0xC001 } 4 [] := by decide +kernel

-- T42-31
theorem test_decR_half : Gives [0x2D] {} [] { f := 0x60, l := 0xFF, pc := 0xC001 } 4 [] := by decide +kernel

-- T42-33
theorem test_decHl :
    Gives [0x35] { h := 0xC1, l := 0x00 } [(0xC100, 0x00)]
      { f := 0x60, h := 0xC1, l := 0x00, pc := 0xC001 } 12 [(0xC100, 0xFF)] := by decide +kernel

-- T42-34
theorem test_daa_add : Gives [0x27] { a := 0x9A } [] { f := 0x90, pc := 0xC001 } 4 [] := by decide +kernel

-- T42-37
theorem test_daa_sub :
    Gives [0x27] { a := 0xFF, f := 0x70 } []
      { a := 0x99, f := 0x50, pc := 0xC001 } 4 [] := by decide +kernel

-- T42-41
theorem test_cpl : Gives [0x2F] { a := 0x35, f := 0x90 } [] { a := 0xCA, f := 0xF0, pc := 0xC001 } 4 [] := by decide +kernel

-- T42-42
theorem test_scf : Gives [0x37] { f := 0xE0 } [] { f := 0x90, pc := 0xC001 } 4 [] := by decide +kernel

-- T42-43
theorem test_ccf : Gives [0x3F] { f := 0xF0 } [] { f := 0x80, pc := 0xC001 } 4 [] := by decide +kernel

/-! ### 16-bit arithmetic -/

-- T43-1
theorem test_addHlRr :
    Gives [0x09] { f := 0x80, b := 0x06, c := 0x05, h := 0x8A, l := 0x23 } []
      { f := 0xA0, b := 0x06, c := 0x05, h := 0x90, l := 0x28, pc := 0xC001 } 8 [] := by decide +kernel

-- T43-4
theorem test_addHlRr_sp :
    Gives [0x39] { h := 0x00, l := 0x01, sp := 0xFFFF } []
      { f := 0x30, sp := 0xFFFF, pc := 0xC001 } 8 [] := by decide +kernel

-- T43-5
theorem test_incRr : Gives [0x03] { f := 0xF0, b := 0xFF, c := 0xFF } [] { f := 0xF0, pc := 0xC001 } 8 [] := by decide +kernel

-- T43-7
theorem test_decRr : Gives [0x1B] {} [] { d := 0xFF, e := 0xFF, pc := 0xC001 } 8 [] := by decide +kernel

-- T43-10
theorem test_addSpE8 :
    Gives [0xE8, 0xFF] { sp := 0x0001 } []
      { f := 0x30, sp := 0x0000, pc := 0xC002 } 16 [] := by decide +kernel

-- T43-11
theorem test_addSpE8_min : Gives [0xE8, 0x80] { sp := 0xD000 } [] { sp := 0xCF80, pc := 0xC002 } 16 [] := by decide +kernel

/-! ### Rotates, shifts and bits -/

-- T44-1
theorem test_rlca : Gives [0x07] { a := 0x85, f := 0xE0 } [] { a := 0x0B, f := 0x10, pc := 0xC001 } 4 [] := by decide +kernel

-- T44-3
theorem test_rrca : Gives [0x0F] { a := 0x01 } [] { a := 0x80, f := 0x10, pc := 0xC001 } 4 [] := by decide +kernel

-- T44-5
theorem test_rla : Gives [0x17] { f := 0x10 } [] { a := 0x01, pc := 0xC001 } 4 [] := by decide +kernel

-- T44-7
theorem test_rra : Gives [0x1F] { a := 0x01, f := 0x80 } [] { f := 0x10, pc := 0xC001 } 4 [] := by decide +kernel

-- T44-8
theorem test_rlcR : Gives [0xCB, 0x00] { b := 0x80 } [] { f := 0x10, b := 0x01, pc := 0xC002 } 8 [] := by decide +kernel

-- T44-10
theorem test_rlcHl :
    Gives [0xCB, 0x06] { h := 0xC1, l := 0x00 } [(0xC100, 0x81)]
      { f := 0x10, h := 0xC1, l := 0x00, pc := 0xC002 } 16 [(0xC100, 0x03)] := by decide +kernel

-- T44-11
theorem test_rrcR : Gives [0xCB, 0x09] { c := 0x01 } [] { f := 0x10, c := 0x80, pc := 0xC002 } 8 [] := by decide +kernel

-- R247 example
theorem test_rrcHl :
    Gives [0xCB, 0x0E] { h := 0xC1, l := 0x00 } [(0xC100, 0x02)]
      { h := 0xC1, l := 0x00, pc := 0xC002 } 16 [(0xC100, 0x01)] := by decide +kernel

-- T44-13
theorem test_rlR : Gives [0xCB, 0x12] { f := 0x10, d := 0x7F } [] { d := 0xFF, pc := 0xC002 } 8 [] := by decide +kernel

-- R249 example
theorem test_rlHl :
    Gives [0xCB, 0x16] { h := 0xC1, l := 0x00 } [(0xC100, 0x11)]
      { h := 0xC1, l := 0x00, pc := 0xC002 } 16 [(0xC100, 0x22)] := by decide +kernel

-- T44-14
theorem test_rrR : Gives [0xCB, 0x1B] { e := 0x01 } [] { f := 0x90, pc := 0xC002 } 8 [] := by decide +kernel

-- T44-15
theorem test_rrHl :
    Gives [0xCB, 0x1E] { f := 0x10, h := 0xC1, l := 0x00 } [(0xC100, 0x8A)]
      { h := 0xC1, l := 0x00, pc := 0xC002 } 16 [(0xC100, 0xC5)] := by decide +kernel

-- T44-17
theorem test_slaR :
    Gives [0xCB, 0x27] { a := 0xFF, f := 0x10 } []
      { a := 0xFE, f := 0x10, pc := 0xC002 } 8 [] := by decide +kernel

-- R253 example
theorem test_slaHl :
    Gives [0xCB, 0x26] { h := 0xC1, l := 0x00 } [(0xC100, 0xFF)]
      { f := 0x10, h := 0xC1, l := 0x00, pc := 0xC002 } 16 [(0xC100, 0xFE)] := by decide +kernel

-- T44-18
theorem test_sraR : Gives [0xCB, 0x2D] { l := 0x81 } [] { f := 0x10, l := 0xC0, pc := 0xC002 } 8 [] := by decide +kernel

-- R255 example
theorem test_sraHl :
    Gives [0xCB, 0x2E] { h := 0xC1, l := 0x00 } [(0xC100, 0x81)]
      { f := 0x10, h := 0xC1, l := 0x00, pc := 0xC002 } 16 [(0xC100, 0xC0)] := by decide +kernel

-- T44-20
theorem test_swapR : Gives [0xCB, 0x37] { a := 0xF1, f := 0xF0 } [] { a := 0x1F, pc := 0xC002 } 8 [] := by decide +kernel

-- R257 example
theorem test_swapHl :
    Gives [0xCB, 0x36] { h := 0xC1, l := 0x00 } [(0xC100, 0xF0)]
      { h := 0xC1, l := 0x00, pc := 0xC002 } 16 [(0xC100, 0x0F)] := by decide +kernel

-- T44-23
theorem test_srlR : Gives [0xCB, 0x38] { b := 0xFF } [] { f := 0x10, b := 0x7F, pc := 0xC002 } 8 [] := by decide +kernel

-- R259 example
theorem test_srlHl :
    Gives [0xCB, 0x3E] { h := 0xC1, l := 0x00 } [(0xC100, 0xFF)]
      { f := 0x10, h := 0xC1, l := 0x00, pc := 0xC002 } 16 [(0xC100, 0x7F)] := by decide +kernel

-- R260 example
theorem test_bitBR : Gives [0xCB, 0x65] { l := 0xEF } [] { f := 0xA0, l := 0xEF, pc := 0xC002 } 8 [] := by decide +kernel

-- T44-26
theorem test_bitBHl :
    Gives [0xCB, 0x7E] { f := 0x10, h := 0xC1, l := 0x00 } [(0xC100, 0x7F)]
      { f := 0xB0, h := 0xC1, l := 0x00, pc := 0xC002 } 12 [(0xC100, 0x7F)] := by decide +kernel

-- R262 example
theorem test_resBR : Gives [0xCB, 0x8D] { l := 0x3B } [] { l := 0x39, pc := 0xC002 } 8 [] := by decide +kernel

-- R263 example
theorem test_resBHl :
    Gives [0xCB, 0x9E] { h := 0xC1, l := 0x00 } [(0xC100, 0xFF)]
      { h := 0xC1, l := 0x00, pc := 0xC002 } 16 [(0xC100, 0xF7)] := by decide +kernel

-- R264 example
theorem test_setBR : Gives [0xCB, 0xFD] { l := 0x3B } [] { l := 0xBB, pc := 0xC002 } 8 [] := by decide +kernel

-- R265 example
theorem test_setBHl :
    Gives [0xCB, 0xDE] { f := 0xF0, h := 0xC1, l := 0x00 } [(0xC100, 0x00)]
      { f := 0xF0, h := 0xC1, l := 0x00, pc := 0xC002 } 16 [(0xC100, 0x08)] := by decide +kernel

/-! ### Control transfer -/

-- T45-1
theorem test_jpN16 : Gives [0xC3, 0x34, 0x12] {} [] { pc := 0x1234 } 16 [] := by decide +kernel

-- T45-4
theorem test_jpCcN16_taken : Gives [0xDA, 0x34, 0x12] { f := 0x10 } [] { f := 0x10, pc := 0x1234 } 16 [] := by decide +kernel

-- T45-3
theorem test_jpCcN16_not_taken :
    Gives [0xC2, 0x34, 0x12] { f := 0x80 } []
      { f := 0x80, pc := 0xC003 } 12 [] := by decide +kernel

-- T45-5
theorem test_jpHl : Gives [0xE9] { h := 0xC1, l := 0x23 } [] { h := 0xC1, l := 0x23, pc := 0xC123 } 4 [] := by decide +kernel

-- T45-8
theorem test_jrE8_back : Gives [0x18, 0x80] {} [] { pc := 0xBF82 } 12 [] := by decide +kernel

-- T45-9
theorem test_jrE8_forward : Gives [0x18, 0x7F] {} [] { pc := 0xC081 } 12 [] := by decide +kernel

-- T45-11
theorem test_jrCcE8_taken : Gives [0x28, 0x02] { f := 0x80 } [] { f := 0x80, pc := 0xC004 } 12 [] := by decide +kernel

-- T45-13
theorem test_jrCcE8_not_taken : Gives [0x30, 0xFC] { f := 0x10 } [] { f := 0x10, pc := 0xC002 } 8 [] := by decide +kernel

-- T45-14
theorem test_callN16 :
    Gives [0xCD, 0x34, 0x12] {} []
      { sp := 0xDFFD, pc := 0x1234 } 24 [(0xDFFE, 0xC0), (0xDFFD, 0x03)] := by decide +kernel

-- T45-23
theorem test_callN16_wraps :
    Gives [0xCD, 0x34, 0x12] { sp := 0x0001 } []
      { sp := 0xFFFF, pc := 0x1234 } 24 [(0xFFFF, 0x03)] := by decide +kernel

-- T45-16
theorem test_callCcN16_taken :
    Gives [0xD4, 0x34, 0x12] {} []
      { sp := 0xDFFD, pc := 0x1234 } 24 [(0xDFFE, 0xC0), (0xDFFD, 0x03)] := by decide +kernel

-- T45-15
theorem test_callCcN16_not_taken : Gives [0xCC, 0x34, 0x12] {} [] { pc := 0xC003 } 12 [] := by decide +kernel

-- T45-17
theorem test_ret :
    Gives [0xC9] { sp := 0xDFF0 } [(0xDFF0, 0x78), (0xDFF1, 0x56)]
      { sp := 0xDFF2, pc := 0x5678 } 16 [] := by decide +kernel

-- T45-18
theorem test_retCc_taken :
    Gives [0xD0] { sp := 0xDFF0 } [(0xDFF0, 0x78), (0xDFF1, 0x56)]
      { sp := 0xDFF2, pc := 0x5678 } 20 [] := by decide +kernel

-- T45-19
theorem test_retCc_not_taken :
    Gives [0xD0] { f := 0x10, sp := 0xDFF0 } [(0xDFF0, 0x78), (0xDFF1, 0x56)]
      { f := 0x10, sp := 0xDFF0, pc := 0xC001 } 8 [] := by decide +kernel

-- T45-20
theorem test_reti :
    Gives [0xD9] { sp := 0xDFF0 } [(0xDFF0, 0x78), (0xDFF1, 0x56)]
      { sp := 0xDFF2, pc := 0x5678 } 16 [] := by decide +kernel

-- T45-21
theorem test_rstT : Gives [0xEF] {} [] { sp := 0xDFFD, pc := 0x0028 } 16 [(0xDFFE, 0xC0), (0xDFFD, 0x01)] := by decide +kernel

-- T45-22
theorem test_rstT_self :
    Gives [0xC7] { sp := 0xC002 } []
      { sp := 0xC000, pc := 0x0000 } 16 [(0xC001, 0xC0), (0xC000, 0x01)] := by decide +kernel

/-! ### System instructions -/

-- T46-1
theorem test_nop : Gives [0x00] {} [] { pc := 0xC001 } 4 [] := by decide +kernel

-- T46-5
theorem test_stop : Gives [0x10, 0x00] {} [] { pc := 0xC002 } 4 [] := by decide +kernel

-- R291
theorem test_illegalD3 : Gives [0xD3] {} [] { pc := 0xC001 } 4 [] := by decide +kernel

-- R291
theorem test_illegalDB : Gives [0xDB] {} [] { pc := 0xC001 } 4 [] := by decide +kernel

-- R291
theorem test_illegalDD : Gives [0xDD] {} [] { pc := 0xC001 } 4 [] := by decide +kernel

-- R291
theorem test_illegalE3 : Gives [0xE3] {} [] { pc := 0xC001 } 4 [] := by decide +kernel

-- R291
theorem test_illegalE4 : Gives [0xE4] {} [] { pc := 0xC001 } 4 [] := by decide +kernel

-- R291
theorem test_illegalEB : Gives [0xEB] {} [] { pc := 0xC001 } 4 [] := by decide +kernel

-- R291
theorem test_illegalEC : Gives [0xEC] {} [] { pc := 0xC001 } 4 [] := by decide +kernel

-- R291
theorem test_illegalED : Gives [0xED] {} [] { pc := 0xC001 } 4 [] := by decide +kernel

-- R291
theorem test_illegalF4 : Gives [0xF4] {} [] { pc := 0xC001 } 4 [] := by decide +kernel

-- R291
theorem test_illegalFC : Gives [0xFC] {} [] { pc := 0xC001 } 4 [] := by decide +kernel

-- R291
theorem test_illegalFD : Gives [0xFD] {} [] { pc := 0xC001 } 4 [] := by decide +kernel


/-! ### Control state -/

-- T45-20
theorem test_reti_ime : (after (poke [(0xC000, 0xD9)] (start {}))).cpu.ime = true := by decide +kernel

-- T46-2
theorem test_halt : (after (poke [(0xC000, 0x76)] (start {}))).cpu.halted = true := by decide +kernel

-- T46-5
theorem test_stop_state : (after (poke [(0xC000, 0x10)] (start {}))).cpu.stopped = true := by decide +kernel

/-- The start state with interrupts enabled. -/
def enabled (r : Regs) : State := let s := start r; { s with cpu := { s.cpu with ime := true } }

-- T46-6
theorem test_di : (after (poke [(0xC000, 0xF3)] (enabled {}))).cpu.ime = false := by decide +kernel

-- R289
theorem test_ei : (after (poke [(0xC000, 0xFB)] (start {}))).cpu.eiDelay = 2 := by decide +kernel

/-- An instruction on its last tick, with an `EI` delay. -/
def lastTick (delay : Nat) (s : State) : State :=
  { s with cpu := { s.cpu with cur := some .nop, ustep := 3, dur := 4, eiDelay := delay } }

-- T46-7, T46-8
theorem test_ei_delay :
    (let t := after (lastTick 2 (start {})); (t.cpu.eiDelay, t.cpu.ime)) = (1, false) ∧
    (let t := after (lastTick 1 (start {})); (t.cpu.eiDelay, t.cpu.ime)) = (0, true) := by
  decide +kernel

-- T46-3, T46-13: a HALT that completes with a request pending
theorem test_halt_with_request :
    (let s := lastTick 0 (poke [(0xFF0F, 0x04), (0xFFFF, 0x04)] (start {}))
     let t := after { s with cpu := { s.cpu with halted := true } }
     (t.cpu.halted, t.cpu.nextInt, t.iflag)) = (false, none, 0x04) ∧
    (let s := lastTick 1 (poke [(0xFF0F, 0x01), (0xFFFF, 0x01)] (start {}))
     let t := after { s with cpu := { s.cpu with halted := true } }
     (t.cpu.halted, t.cpu.nextInt, t.cpu.ime)) = (false, some .vblank, true) := by
  decide +kernel

-- T46-4: the halted engine, woken by the timer's request
theorem test_halt_woken :
    (let s := poke [(0xFF0F, 0x04), (0xFFFF, 0x04)] (enabled { pc := 0xC001 })
     let t := after { s with cpu := { s.cpu with halted := true } }
     (t.cpu.halted, t.cpu.nextInt, t.cpu.pc)) = (false, some .timer, 0xC001) := by
  decide +kernel

/-! ### Extended opcode and interrupt table -/

-- T44-20, as the table entry PREFIX with its second byte
theorem test_cbPrefix : (match exec (.cbPrefix 0x37) (start { a := 0xF1, f := 0xF0 }) with
    | .next t => (regsOf t.cpu, t.cpu.dur)
    | _ => ({}, 0)) = ({ a := 0x1F }, 8) := by
  decide +kernel

/-- The interrupt `q` taken with `IF` = `i` and `IE` = `e`: `sp`, `pc`, `IME`, the two pushed bytes, `IF`, `IE`. -/
def taken (q : Irq) (i e : Byte) (r : Regs) : (Word × Word × Bool) × (Byte × Byte) × (BitVec 5 × Byte) :=
  let s := poke [(0xFF0F, i), (0xFFFF, e)] (enabled r)
  let t := after { s with cpu := { s.cpu with nextInt := some q } }
  ((t.cpu.sp, t.cpu.pc, t.cpu.ime), (peek t 0xDFFE, peek t 0xDFFD), (t.iflag, t.ie))

-- T60-6
theorem test_intVblank :
    taken .vblank 0x1F 0x1F {} = ((0xDFFD, 0x0040, false), (0xC0, 0x00), (0x1E, 0x1F)) := by decide +kernel

-- T60-2
theorem test_intStat :
    taken .stat 0x02 0x02 {} = ((0xDFFD, 0x0048, false), (0xC0, 0x00), (0x00, 0x02)) := by decide +kernel

-- T60-3
theorem test_intTimer :
    taken .timer 0x04 0x04 {} = ((0xDFFD, 0x0050, false), (0xC0, 0x00), (0x00, 0x04)) := by decide +kernel

-- T60-7
theorem test_intSerial :
    taken .serial 0x1A 0x0C {} = ((0xDFFD, 0x0058, false), (0xC0, 0x00), (0x12, 0x0C)) := by decide +kernel

-- T60-5
theorem test_intJoypad :
    taken .joypad 0x10 0x10 {} = ((0xDFFD, 0x0060, false), (0xC0, 0x00), (0x00, 0x10)) := by decide +kernel

-- T60-11
theorem test_int_push_into_ie :
    taken .vblank 0x01 0x01 { sp := 0x0001 } = ((0xFFFF, 0x0040, false), (0x00, 0x00), (0x00, 0x00)) := by
  decide +kernel

-- T60-7 to T60-10: what the completion step answers
theorem test_consult :
    (let c := fun (ime : Bool) (i e : Byte) =>
      consult (poke [(0xFF0F, i), (0xFFFF, e)] (if ime then enabled {} else start {}))
     (c true 0x1A 0x0C, c false 0x1F 0x1F, c true 0x1F 0x00, c true 0x00 0xE0)) = (some .serial, none, none, none) := by
  decide +kernel

/-! ## The bus and the devices -/

/-- Parameters of a small colour machine and of machines with each bank controller. -/
def colour : Params := { Params.defaultFor true with boot := .absent }
def withMbc (k : MbcKind) : Params := { Params.default with boot := .absent, mbc := k, romBanks := 8, romSize := 0x20000, ramBanks := 4 }
def machine (p : Params) : State := resetWith p Init.default

-- T20-3
theorem test_unmapped_gap : (peek (start {}) 0xFEA0, peek (start {}) 0xFEFF) = (0xFF, 0xFF) := by decide +kernel

-- T20-6
theorem test_external_ram_latch :
    (let s := (machine (withMbc .mbc1)).setCell (cartRamKey 0 0xA000) 0x77
     let t := busWrite 0x0000 0x0A (busWrite 0xA000 0x11 s)
     (peek s 0xA000, peek t 0xA000)) = (0xFF, 0x77) := by
  decide +kernel

-- T-SRC-7
theorem test_mbc1_bank_quirk :
    (let s := ((machine (withMbc .mbc1)).setCell (romKey 0x4000) 0xB1).setCell (romKey 0x8000) 0xB2
     [0x00, 0x20, 0x40, 0x60, 0x02, 0x21].map (fun v => peek (busWrite 0x2000 v s) 0x4000)) =
      [0xB1, 0xB1, 0xB1, 0xB1, 0xB2, 0xB1] := by
  decide +kernel

-- T20-7, with an image of 4 banks
theorem test_rom_bank_modulo :
    romOffset (busWrite 0x2000 0x05 (machine { withMbc .mbc1 with romBanks := 4, romSize := 0x10000 })) 0x4000 = 0x4000 := by
  decide +kernel

-- T20-8, T20-9
theorem test_stat_write :
    (let s := (start {}).setIo .stat 0x02
     let t := busWrite 0xFF41 0xFF s
     (t.io .stat, peek t 0xFF41)) = (0xFE, 0xFE) ∧
    (let s := (start {}).setIo .stat 0x7B
     let t := busWrite 0xFF41 0x00 s
     (t.io .stat, peek t 0xFF41)) = (0x03, 0x83) := by
  decide +kernel

-- T20-10
theorem test_vbk_monochrome :
    (let t := busWrite 0xFF4F 0x01 (start {})
     (vramBank t, peek t 0xFF4F)) = (0, 0xFF) := by
  decide +kernel

-- T20-11
theorem test_trigger_channel2 :
    (let s := start {}
     peek (busWrite 0xFF19 0x80 { s with audio := { s.audio with master := true } }) 0xFF26) = 0xF2 := by
  decide +kernel

-- T20-12
theorem test_div_write_falling_edge :
    (let s := poke [(0xFF07, 0x05), (0xFF05, 0x10)] (start {})
     let t := busWrite 0xFF04 0x00 { s with timer := { s.timer with div16 := 0x0008, tinPrev := true } }
     (t.timer.div16, (busStep t).io .tima)) = (0x0000, 0x11) := by
  decide +kernel

-- T20-13
theorem test_if_register :
    (let t := busWrite 0xFF0F 0xFF (start {})
     (t.iflag, peek t 0xFF0F, peek (busWrite 0xFF0F 0x00 t) 0xFF0F)) = (0x1F, 0xFF, 0xE0) := by
  decide +kernel

-- T-SRC-3, with work RAM bank 3
theorem test_echo :
    (let s := busWrite 0xD000 0x77 (busWrite 0xFF70 0x03 (machine colour))
     (peek s 0xF000, peek (busWrite 0xFF70 0x04 s) 0xF000, peek (busWrite 0xFDFF 0xA5 s) 0xDDFF)) = (0x77, 0x00, 0xA5) := by
  decide +kernel

-- T-SRC-5: tick 1 fetches the first byte of the boot ROM
theorem test_boot_fetch :
    (let s := ((State.reset.setCell (bootKey 0) 0x31).setCell (bootKey 1) 0xFE).setCell (bootKey 2) 0xFF
     (let t := after s; (t.cpu.cur, t.cpu.sp, t.cpu.pc))) = (some (.ldRrN16 .sp 0xFFFE), 0xFFFE, 0x0003) := by
  decide +kernel

-- T-SRC-6: the first byte of a transfer
theorem test_oam_dma_first_byte :
    (let s := poke [(0x8000, 0x5A), (0xC000, 0x12), (0xFF80, 0x34), (0xFF46, 0x80)] (start {})
     let t := busStep s
     (s.dma.left, t.dma.left, t.cell (oamKey 0), cpuPeek t 0xC000, cpuPeek t 0xFF80, cpuPeek t 0xFF46)) =
      (160, 159, 0x5A, 0xFF, 0x34, 0x80) := by
  decide +kernel

-- T-SRC-8: overflow, then the reload with its request one tick later
theorem test_timer_overflow :
    (let s := poke [(0xFF07, 0x05), (0xFF05, 0xFF), (0xFF06, 0xFE)] (start {})
     let t := busStep { s with timer := { s.timer with div16 := 0x000F, tinPrev := true } }
     let u := busStep t
     (t.io .tima, t.iflag, u.io .tima, u.iflag)) = (0x00, 0x00, 0xFE, 0x04) := by
  decide +kernel

-- T-SRC-9
theorem test_line_compare :
    (let s := poke [(0xFF45, 0x05), (0xFF41, 0x40), (0xFF40, 0x80)] (start {})
     let t := videoStep { s with video := { s.video with ly := 5 } }
     ((t.io .stat).getLsbD 2, t.iflag, t.video.dot)) = (true, 0x02, 1) := by
  decide +kernel

-- T-SRC-10
theorem test_length_counter :
    (let s := (start {}).setIo .nr34 0x40
     let t := audioStep { s with audio := { s.audio with ch3 := ⟨true, 5, 0, 1⟩, ch4 := ⟨true, 5, 0, 1⟩ } }
     (t.audio.ch3.on, t.audio.ch3.length, t.audio.ch4.on, t.audio.ch4.length)) = (false, 0, true, 1) := by
  decide +kernel

-- R289, log 29: `EI` with `IME` = 1 and a request pending changes nothing, so the handler starts with `IME` = 0 and no delay
theorem test_ei_before_dispatch :
    (let s := enabled {}
     let t := after { s with cpu := { s.cpu with eiDelay := 1, nextInt := some .vblank } }
     (t.cpu.pc, t.cpu.ime, t.cpu.eiDelay)) = (0x0040, false, 0) := by
  decide +kernel

/-- A `STOP` on its last tick, in the middle of a frame call of a machine with a clock. -/
def stopping : State :=
  let s := machine (withMbc (.mbc3 true))
  { s with session := ⟨5, 0⟩, cpu := { s.cpu with cur := some .stop, ustep := 3, dur := 4, stopped := true } }

-- R313, R359, log 9: the call in which the clock stops ends, and the host is between calls
theorem test_stop_ends_call :
    (let t := after stopping
     (clockStopped t, t.session.frameTick, (frameResult t).isSome, (queryRtc stopping).isSome, (queryRtc t).isSome)) =
      (true, 0, true, false, true) := by
  decide +kernel

-- R347: the bytes of a pixel
theorem test_pixel_bytes : rgbaBytes 0x11223344 = [0x11, 0x22, 0x33, 0x44] := by decide

-- R356: the buffer has a fixed size
theorem test_buffer_size :
    (let s := machine { colour with samplesPerFrame := 3 }
     (bufferPairs s, bufferPairs { s with audio := { s.audio with pairs := [(7, 8)], out := [(1, 2), (3, 4), (5, 6)] } })) =
      ([(0, 0), (0, 0), (0, 0)], [(7, 8), (3, 4), (5, 6)]) := by
  decide +kernel

-- R95: an image of 8 banks, whatever its header declares
theorem test_bank_count_of_image :
    romOffset (busWrite 0x2000 0x05 (machine { withMbc .mbc1 with romBanks := imageBanks 0x20000 })) 0x4000 = 0x14000 := by
  decide +kernel

-- R6, conflict C3: the default of `WRAM_BANKS` in either mode, and R39: work RAM bank 7 of a colour machine is a bank of its own
theorem test_wram_banks :
    ((Params.defaultFor false).wramBanks, (Params.defaultFor true).wramBanks,
      wramBank (busWrite 0xFF70 0x07 (machine colour))) = (2, 8, 7) := by
  decide +kernel

-- R44: the reset table gives the two banks, and the launch the other bits of the selectors
theorem test_bank_selectors_at_reset :
    (let s := resetWith colour { Init.default with mem := [(0xFF05, 0x12), (0xFF42, 0x34), (0xFF4F, 0xFF), (0xFF70, 0x07)] }
     (vramBank s, wramBank s, s.io .vbk, s.io .svbk, s.io .tima, s.io .scy)) = (0, 1, 0xFE, 0x01, 0x00, 0x34) := by
  decide +kernel

-- section 5 of 20_memory.md, "colour mode only": an active flag of the launch serves nothing in monochrome mode
theorem test_hblank_dma_monochrome :
    (let s := fun (p : Params) => resetWith p { Init.default with hdmaActive := true }
     ((hblankDma (s Params.default)).hdma.src, (hblankDma (s colour)).hdma.src)) = (0x0000, 0x0010) := by
  decide +kernel

-- R345: the index of a palette port advances modulo 64
theorem test_palette_port :
    (let s := busWrite 0xFF69 0x12 (busWrite 0xFF68 0xBF (machine colour))
     (s.cell (bgPalKey 63), s.io .bcps)) = (0x12, 0x80) := by
  decide +kernel

-- R339, R343: a pixel the window covers marks the line, and the start of a line clears the mark
theorem test_window_mark :
    (let s := poke [(0xFF40, 0xA0)] (start {})
     let at' := fun (n : Nat) (b : Bool) => { s with video := { s.video with dot := n, winDrawn := b } }
     ((videoStep (at' s.cfg.pixelStartDot false)).video.winDrawn, (videoStep (at' 0 true)).video.winDrawn)) =
      (true, false) := by
  decide +kernel

/-! ## Witnesses: the hypotheses of the statements can be met -/

/-! ### Encoding -/

theorem witness_EncodeThenDecode :
    (Instr.stop.WellFormed = true ∧ Instr.stop.inStream = true) ∧
    ((Instr.setBHl 7).WellFormed = true ∧ (Instr.setBHl 7).inStream = true) := by decide

theorem witness_DecodeThenEncode :
    decode [0x10, 0xFF] = .ok (.stop, []) ∧ decode [0x31, 0xFE, 0xFF, 0x00] = .ok (.ldRrN16 .sp 0xFFFE, [0x00]) :=
  ⟨rfl, rfl⟩

/-! ### Instructions -/

theorem witness_PushAndPop : StackPair.hl ≠ .af := by decide

theorem witness_conditions : ∀ cc : Cond, (∃ f, condHolds cc f = true) ∧ ∃ f, condHolds cc f = false
  | .nz => ⟨⟨⟨false, false, false, false⟩, rfl⟩, ⟨true, false, false, false⟩, rfl⟩
  | .z => ⟨⟨⟨true, false, false, false⟩, rfl⟩, ⟨false, false, false, false⟩, rfl⟩
  | .nc => ⟨⟨⟨false, false, false, false⟩, rfl⟩, ⟨false, false, false, true⟩, rfl⟩
  | .c => ⟨⟨⟨false, false, false, true⟩, rfl⟩, ⟨false, false, false, false⟩, rfl⟩

theorem witness_SystemInstructions : (start {}).cpu.eiDelay = 0 ∧ (lastTick 1 (start {})).cpu.eiDelay ≠ 0 := by
  decide +kernel

theorem witness_RegisterFrame :
    (∃ t, exec (.ldHlSpE8 0x80) (start {}) = .next t) ∧ isInterruptEntry (.ldHlSpE8 0x80) = false := ⟨exec_next _ _, rfl⟩

/-- A push into work RAM, and an address it does not store to. -/
theorem witness_MemoryFrame :
    (∃ t, exec (.pushRs .bc) (start {}) = .next t) ∧
    (∀ a ∈ storedTo (.pushRs .bc) (start {}), cpuRestricted (start {}) a = false ∧ ∃ k, place (start {}) a = .ram k) ∧
    PlainRead (start {}) 0xDFFC ∧ (∀ a ∈ storedTo (.pushRs .bc) (start {}), place (start {}) 0xDFFC ≠ place (start {}) a) := by
  have hs : storedTo (.pushRs .bc) (start {}) = [0xDFFE, 0xDFFD] := by decide +kernel
  have h1 : cpuRestricted (start {}) 0xDFFE = false ∧ place (start {}) 0xDFFE = .ram (wramKey 1 0xDFFE) := by decide +kernel
  have h2 : cpuRestricted (start {}) 0xDFFD = false ∧ place (start {}) 0xDFFD = .ram (wramKey 1 0xDFFD) := by decide +kernel
  have h3 : place (start {}) 0xDFFC = .ram (wramKey 1 0xDFFC) := by decide +kernel
  rw [hs]
  refine ⟨exec_next _ _, fun a ha => ?_, fun r => ?_, fun a ha => ?_⟩
  · obtain rfl | rfl := by simpa using ha
    · exact ⟨h1.1, _, h1.2⟩
    · exact ⟨h2.1, _, h2.2⟩
  · rw [h3]; exact nofun
  · obtain rfl | rfl := by simpa using ha
    · exact fun h => absurd (h3.symm.trans (h.trans h1.2)) (by decide)
    · exact fun h => absurd (h3.symm.trans (h.trans h2.2)) (by decide)

/-- The form that stores nothing. -/
theorem witness_MemoryFrame_no_store :
    storedTo (.cpAHl) (start {}) = [] ∧ storedTo (.callCcN16 .z 0x1234) (start {}) = [] := by decide +kernel

/-! ### The engine -/

theorem witness_StepRunsDecodedInstruction :
    let s := poke [(0xC000, 0x06), (0xC001, 0x05)] (start {})
    let u := engineView s
    let u1 := cpuObserve u u.cpu.pc
    let u2 := cpuObserve u1 (u.cpu.pc + 1)
    clockStopped s = false ∧ AtDecode u ∧ u.cpu.nextInt = none ∧
    decode [cpuPeek u u.cpu.pc, cpuPeek u1 (u.cpu.pc + 1), cpuPeek u2 (u.cpu.pc + 2)] = .ok (.ldRN8 .b 5, [0x00]) := by
  intro s u u1 u2
  have h : [cpuPeek u u.cpu.pc, cpuPeek u1 (u.cpu.pc + 1), cpuPeek u2 (u.cpu.pc + 2)] = [0x06, 0x05, 0x00] := by
    decide +kernel
  refine ⟨by decide +kernel, ⟨⟨by decide +kernel, .inl (by decide +kernel)⟩, by decide +kernel, by decide +kernel⟩,
    by decide +kernel, ?_⟩
  rw [h]
  rfl

theorem witness_InterruptReplacesDecode :
    let s := start {}
    let s' := { s with cpu := { s.cpu with nextInt := some .joypad } }
    let u := engineView s'
    clockStopped s' = false ∧ AtDecode u ∧ u.cpu.nextInt = some .joypad := by
  intro s s' u
  exact ⟨by decide +kernel, ⟨⟨by decide +kernel, .inl (by decide +kernel)⟩, by decide +kernel, by decide +kernel⟩,
    by decide +kernel⟩

/-- The last tick of an instruction. -/
theorem witness_CompletionStep_last :
    let s := lastTick 2 (start {})
    let u := engineView s
    clockStopped s = false ∧ NotStalled u ∧ u.cpu.cur = some .nop ∧ 0 < u.cpu.ustep ∧ u.cpu.dur ≤ u.cpu.ustep + 1 := by
  intro s u
  exact ⟨by decide +kernel, ⟨by decide +kernel, .inl (by decide +kernel)⟩, by decide +kernel, by decide +kernel,
    by decide +kernel⟩

/-- The last tick but one. -/
theorem witness_CompletionStep_running :
    let s := lastTick 2 (start {})
    let s' := { s with cpu := { s.cpu with ustep := 2 } }
    let u := engineView s'
    clockStopped s' = false ∧ NotStalled u ∧ u.cpu.cur = some .nop ∧ 0 < u.cpu.ustep ∧ u.cpu.ustep + 1 < u.cpu.dur := by
  intro s s' u
  exact ⟨by decide +kernel, ⟨by decide +kernel, .inl (by decide +kernel)⟩, by decide +kernel, by decide +kernel,
    by decide +kernel⟩

theorem witness_InterruptPriority :
    (let s := poke [(0xFF0F, 0x1F), (0xFFFF, 0x10)] (enabled {})
     consult s = some .joypad ∧ s.cpu.ime = true) := by
  decide +kernel

/-- A halted state with `IF` = 0x1F and `IE` = `e`. -/
def haltedWith (e : Byte) : State :=
  let s := poke [(0xFF0F, 0x1F), (0xFFFF, e)] (start {})
  { s with cpu := { s.cpu with halted := true } }

theorem witness_HaltWakeUp :
    let u := fun (e : Byte) => engineView (haltedWith e)
    (∀ e, e = 0xE0 ∨ e = 0x10 → clockStopped (haltedWith e) = false ∧ NotStalled (u e) ∧ (u e).cpu.cur = none ∧
      (u e).cpu.halted = true) ∧
    (u 0xE0).iflag &&& (u 0xE0).ie.extractLsb' 0 5 = 0 ∧ (u 0x10).iflag &&& (u 0x10).ie.extractLsb' 0 5 ≠ 0 := by
  intro u
  refine ⟨fun e he => ?_, by decide +kernel, by decide +kernel⟩
  obtain rfl | rfl := he
  all_goals
    exact ⟨by decide +kernel, ⟨by decide +kernel, .inl (by decide +kernel)⟩, by decide +kernel, by decide +kernel⟩

/-- Which of the two cases of the mask holds is a free value. -/
theorem witness_StopState :
    (let s := machine colour
     let s' := { s with cpu := { s.cpu with stopped := true } }
     clockStopped s' = true ∧ s'.session.frameTick = 0) := by
  decide +kernel

theorem witness_StallSuspendsEngine :
    (let s := start {}
     let s' := { s with hdma := { s.hdma with stall := 1 } }
     clockStopped s' = false ∧ 0 < (engineView s').hdma.stall) ∧
    (let s := machine { colour with oamDmaStallsCpu := true }
     let s' := { s with session := ⟨1, 0⟩, dma := { s.dma with left := 2 } }
     let u := engineView s'
     clockStopped s' = false ∧ u.hdma.stall = 0 ∧ u.cfg.oamDmaStallsCpu = true ∧ 0 < u.dma.left) := by
  decide +kernel

theorem witness_replaceCartRam :
    (replaceCartRam [] { machine { Params.default with battery := true } with session := ⟨0, 0⟩ }).isSome = true ∧
    (replaceRtc 1 2 (machine (withMbc (.mbc3 true)))).isSome = true := by
  decide +kernel

/-! ### Memory -/

theorem witness_EchoAndUnmapped :
    (peek (start {}) 0xE000 = peek (start {}) 0xC000 ∧ cpuRestricted (start {}) 0xFDFF = false) ∧
    (0xFF03 - 0xFF00 ∉ registerOffsets ∧ 0xFF7F - 0xFF00 ∉ registerOffsets) ∧
    (0xFF4F - 0xFF00 ∈ colourOffsets ∧ 0xFF70 - 0xFF00 ∈ colourOffsets ∧ (start {}).cfg.cgb = false) := by
  decide +kernel

/-- Both ends of each window. -/
theorem witness_PlainStorage :
    [0x8000, 0x9FFF, 0xC000, 0xCFFF, 0xD000, 0xDFFF, 0xFE00, 0xFE9F, 0xFF80, 0xFFFE, 0xFFFF].map (place (start {})) =
      [.ram (vramKey 0 0x8000), .ram (vramKey 0 0x9FFF), .ram (wramKey 0 0xC000), .ram (wramKey 0 0xCFFF),
       .ram (wramKey 1 0xD000), .ram (wramKey 1 0xDFFF), .ram (oamKey 0), .ram (oamKey 159), .ram 0xFF80, .ram 0xFFFE, .ie] ∧
    (let s := busWrite 0xFF70 0x07 (machine colour)
     s.cfg.cgb = true ∧ (s.io .svbk).toNat % 8 < s.cfg.wramBanks ∧ wramBank s = 7) := by
  decide +kernel

/-- A byte of each array, at an end of it. -/
theorem witness_PlainStorage_bytes :
    (StoredByte.rom 0x4000).Valid ∧ (StoredByte.boot 2303).Valid ∧ (StoredByte.vram 1 0x9FFF).Valid ∧
    (StoredByte.cartRam 3 0xA000).Valid ∧ (StoredByte.wram 7 0xDFFF).Valid ∧ (StoredByte.oam 159).Valid ∧
    (StoredByte.register .svbk).Valid ∧ (StoredByte.highRam 0xFFFE).Valid ∧ (StoredByte.bgPalette 63).Valid ∧
    (StoredByte.objPalette 63).Valid := by
  simp only [StoredByte.Valid]
  decide

/-- Hidden on the first and the last of the ticks 1 to 159, not on tick 0 nor after the transfer. -/
theorem witness_OamDmaWindow :
    (let s := fun (n : Nat) => { start {} with dma := ⟨0x8000, n⟩ }
     [0, 1, 159, 160].map (fun n => cpuRestricted (s n) 0xC000) = [false, true, true, false] ∧
     [0xFF45, 0xFF46, 0xFF47, 0xFF7F, 0xFF80, 0xFFFE, 0xFFFF].map (cpuRestricted (s 1)) =
       [true, false, true, true, false, false, true]) := by
  decide +kernel

theorem witness_OamDmaTransfer :
    (let s := fun (n : Nat) => { start {} with dma := ⟨0x8000, n⟩ }
     [160, 1, 0].map (fun n => ((oamDmaStep (s n)).dma.left)) = [159, 0, 0]) ∧
    (0x80 ≤ (0x80 : Byte).toNat ∧ (0x9F : Byte).toNat ≤ 0x9F) := by
  decide +kernel

theorem witness_RomReads :
    (let p := fun (b : BootRom) (a : Word) => place (machine { Params.default with boot := b, romSize := 0x7FFF }) a
     [p .bytes256 0x00FF, p .bytes256 0x0100, p .bytes2304 0x01FF, p .bytes2304 0x0200, p .bytes2304 0x08FF,
      p .bytes2304 0x0900, p .absent 0x0000, p .absent 0x7FFE, p .absent 0x7FFF] =
     [.rom (some (bootKey 0xFF)), .rom (some (romKey 0x100)), .rom (some (romKey 0x1FF)), .rom (some (bootKey 0x200)),
      .rom (some (bootKey 0x8FF)), .rom (some (romKey 0x900)), .rom (some (romKey 0)), .rom (some (romKey 0x7FFE)),
      .rom none]) := by
  decide +kernel

/-- A control write at both ends of each window of each variant. -/
theorem witness_BankSwitching :
    (let w := fun (k : MbcKind) (a : Word) (v : Byte) => (busWrite a v (machine (withMbc k))).mbc
     [(w .mbc1 0x1FFF 0x0A).ramEn, (w .mbc1 0x2000 0x0A).ramEn, (w (.mbc3 true) 0x1FFF 0x3A).ramEn, (w .mbc5 0x0000 0x0B).ramEn] =
       [true, false, true, false] ∧
     [(w .mbc1 0x3FFF 0xE5).romBank, (w (.mbc3 true) 0x2000 0x80).romBank, (w .mbc5 0x2FFF 0x00).romBank,
      (w .mbc5 0x3000 0x01).romBank, (w .mbc5 0x3FFF 0x00).romBank] = [5, 1, 0, 0x101, 1] ∧
     [(w (.mbc3 true) 0x4000 0x0C).ramSel, (w .mbc5 0x5FFF 0x1F).ramSel] = [0x0C, 0x0F] ∧
     [(w .mbc1 0x5FFF 0x07).bankHi, (w .mbc1 0x6000 0x07).bankHi] = [3, 0] ∧
     [(w .mbc1 0x6000 0x01).mode, (w .mbc1 0x7FFF 0x02).mode] = [true, false] ∧
     (w (.mbc3 true) 0x6000 0x01, w .mbc5 0x7FFF 0xFF) = ((machine colour).mbc, (machine colour).mbc) ∧
     busWrite 0x7FFF 0x55 (start {}) = start {}) := by
  decide +kernel

/-- A machine can be constructed, here from an image of one partly filled bank. -/
theorem witness_BankSwitching_construct : ∃ s, construct
    { rom := [0x00, 0xC3, 0x50], boot := none, cartRam := [], headerType := .variant .mbc1, romBanks := 0
      ramBanks := some 0, battery := false, cgb := false, params := none, init := Init.default } = .ok s ∧
    s.cfg.romBanks = 1 := ⟨_, rfl, rfl⟩

/-- The window denied, both ends of a bank, a clock register, and the first bank that is not there. -/
theorem witness_ExternalRam :
    (let s := fun (k : MbcKind) (en : Bool) (sel : Byte) =>
       { machine (withMbc k) with mbc := { ramEn := en, romBank := 1, bankHi := 0, ramSel := sel, mode := false } }
     [place (s .mbc5 false 0) 0xA000, place (s .mbc5 true 3) 0xA000, place (s .mbc5 true 3) 0xBFFF,
      place (s .mbc5 true 4) 0xA000, place (s (.mbc3 true) true 8) 0xA000, place (s (.mbc3 true) true 0x0C) 0xBFFF] =
     [.denied, .ram (cartRamKey 3 0xA000), .ram (cartRamKey 3 0xBFFF), .denied, .clock .seconds, .clock .dayHigh]) := by
  decide +kernel

theorem witness_RealTimeClock : ∀ r : RtcReg,
    ∃ sel : Byte, place { machine (withMbc (.mbc3 true)) with
      mbc := { ramEn := true, romBank := 1, bankHi := 0, ramSel := sel, mode := false } } 0xA000 = .clock r
  | .seconds => ⟨0x08, by decide +kernel⟩
  | .minutes => ⟨0x09, by decide +kernel⟩
  | .hours => ⟨0x0A, by decide +kernel⟩
  | .dayLow => ⟨0x0B, by decide +kernel⟩
  | .dayHigh => ⟨0x0C, by decide +kernel⟩

theorem witness_RealTimeClock_values : (59 : Byte).toNat < 60 ∧ (0 : Byte).toNat < 24 ∧ (23 : Byte).toNat < 24 := by decide

/-! ### Registers and devices -/

theorem witness_DeviceRegisters :
    IoReg.wx ∈ plainRegisters ∧ (start {}).writeMask .stat = 0xFC ∧ (start {}).writeMask .nr52 = 0x80 ∧
    (start {}).writeMask .p1 = 0x30 ∧ (machine colour).cfg.cgb = true := by decide +kernel

/-- A transfer from the end of work RAM to the end of video RAM, active or not. -/
def transfer (on : Bool) : State := { machine colour with hdma := ⟨0xDFF0, 0x1FF0, 0, on, 0⟩ }

theorem transfer_plain (on : Bool) : PlainSource (transfer on) 0xDFF0 0x1FF0 16 := by
  have h : ∀ j < 16, place (transfer on) (BitVec.ofNat 16 (0xDFF0 + j)) = .ram (wramKey 1 (0xDFF0 + j)) := by
    cases on <;> decide +kernel
  have hb : vramBank (transfer on) = 0 := by cases on <;> decide +kernel
  intro j hj
  unfold PlainRead
  rw [h j hj, hb]
  exact ⟨nofun, fun i hi e => by injection e with e; unfold wramKey vramKey at e; omega⟩

theorem witness_ColourDma :
    ((transfer true).cfg.cgb = true ∧ (transfer true).hdma.active = true ∧ (transfer true).hdma.remaining = 0 ∧
      (transfer false).hdma.active = false) ∧
    ((transfer false).hdma.src.toNat / 16 * 16 = 0xDFF0 ∧ (transfer false).hdma.dst.toNat % 0x2000 / 16 * 16 = 0x1FF0 ∧
      0x1FF0 + (0 + 1) * 16 ≤ 0x2000) ∧
    (∀ on, PlainSource (transfer on) 0xDFF0 0x1FF0 16) ∧
    ((0x7F : Byte).toNat < 128 ∧ 128 ≤ (0x80 : Byte).toNat ∧ (start {}).cfg.cgb = false) :=
  ⟨by decide +kernel, by decide +kernel, transfer_plain, by decide +kernel⟩

theorem witness_JoypadPort :
    (let s := start {}
     ∃ i : Fin 4, s.joy.lines.getLsbD i = true) ∧
    (let s := start {}
     ∀ i < 2, s.joy.select.getLsbD i = true) := by
  decide +kernel

theorem defaultParams_ok : Params.default.Ok :=
  ⟨by decide, by decide, by decide, 12, 13, by decide, by decide, by decide, by decide⟩

theorem witness_VideoRequests : (start {}).cfg.Ok ∧ lcdOn (busWrite 0xFF40 0x80 (start {})) = true ∧ lcdOn (start {}) = false :=
  ⟨defaultParams_ok, by decide +kernel, by decide +kernel⟩

/-- The display on; the positions of each clause, with the window there; and that two of them are visible. -/
theorem witness_ScanlineStateMachine :
    (busWrite 0xFF40 0xA0 (start {})).cfg.Ok ∧
    (let s := busWrite 0xFF40 0xA0 (start {})
     lcdOn s = true ∧ s.video.ly = 0 ∧ s.video.dot = 0 ∧ (s.io .lcdc).getLsbD 5 = true ∧ (s.io .wy).toNat ≤ s.video.ly ∧
     (s.io .wx).toNat ≤ 0 + 7 ∧ s.cfg.pixelStartDot + 159 < s.cfg.hblankDot ∧ s.cfg.hblankDot < 455) :=
  ⟨defaultParams_ok, by decide +kernel⟩

/-- Line 0, with sprite 0 listed, at columns 0 to 7 of it, its pixel at column 0 not transparent. -/
def oneSprite (p : Params) (lcdc : Byte) : State :=
  let s := poke [(0xFE00, 16), (0xFE01, 8), (0x8000, 0x80), (0xFF40, lcdc)] (machine p)
  { s with video := { s.video with sprites := [0] } }

theorem witness_Sprites :
    (let s := oneSprite Params.default 0x82
     CoversLine s 0 ∧ ¬CoversLine s 1 ∧ s.video.ly < 144 ∧ s.video.dot = 0 ∧
     spritePixel s 0 0 = some { x := 8, k := 0, attr := 0, sidx := 1 } ∧ spritePixel s 1 0 = none) := by
  simp only [CoversLine]
  decide +kernel

/-- A column with a sprite and one without, in both modes. -/
theorem witness_PixelOutput :
    ∀ p ∈ [Params.default, colour], spriteAt (oneSprite p 0x82) 0 = some { x := 8, k := 0, attr := 0, sidx := 1 } ∧
      spriteAt (oneSprite p 0x82) 1 = none ∧ (p.cgb = false ∨ p.cgb = true) := by
  decide +kernel

theorem witness_AudioTrigger : (0x7F : Byte).toNat < 128 ∧ 128 ≤ (0x80 : Byte).toNat := by decide

theorem witness_Mixing :
    (start {}).audio.master = false ∧ (busWrite 0xFF26 0x80 (start {})).audio.master = true := by decide +kernel

/-- The last tick of a frame of 4 pairs, all taken. -/
theorem witness_FrameCalls :
    (let s := machine { colour with samplesPerFrame := 4 }
     let s' := { s with session := ⟨70223, 0⟩, audio := { s.audio with pairs := List.replicate 4 (0, 0) } }
     CadenceOk s' ∧ clockStopped s' = false ∧ s'.session.frameTick = 70223) := by
  refine ⟨⟨by decide +kernel, by decide +kernel⟩, by decide +kernel, rfl⟩

/-- A frame boundary, with a buffer handed out, and a tick inside a call. -/
theorem witness_FrameCalls_boundary :
    (let s := machine { colour with samplesPerFrame := 2 }
     let s' := { s with audio := { s.audio with out := [(1, 2), (3, 4)] } }
     s'.session.frameTick = 0 ∧ s'.audio.pairs = [] ∧ s'.audio.out[1]? = some (3, 4) ∧ ∃ r, frameResult s' = some r) ∧
    (start {}).session.frameTick ≠ 0 :=
  ⟨⟨rfl, rfl, rfl, _, rfl⟩, by decide +kernel⟩

theorem witness_ResetValues : Params.default.boot ≠ .absent ∧ (withMbc .mbc1).boot = .absent ∧ Memory.wf Init.default.mem := by
  decide

/-- A launch without OPEN parameters, in colour mode, with a cartridge of three bytes, a boot ROM and two bytes of cartridge RAM. -/
def colourLaunch : Launch :=
  { rom := [0x00, 0xC3, 0x50], boot := some (List.replicate 256 0x31), cartRam := [0x11, 0x22], headerType := .variant .mbc1
    romBanks := 0, ramBanks := some 1, battery := false, cgb := true, params := none, init := Init.default }

theorem witness_ResetValues_construct :
    (match construct colourLaunch with
      | .ok s => (s.cfg.wramBanks, s.cell (romKey 1), s.cell (bootKey 255), s.cell (cartRamKey 0 0xA001), s.cell (romKey 3))
      | .error _ => (0, 0, 0, 0, 0)) = (8, 0xC3, 0x31, 0x22, 0x00) := by
  decide +kernel

theorem step_is_next : ∀ s : State, (match step s with
    | .next _ => true
    | _ => false) = true → ∃ t, step s = .next t := by
  intro s h
  cases hs : step s with
  | next t => exact ⟨t, rfl⟩
  | fault r => cases r
  | refused r => simp [hs] at h

theorem witness_StepKeeps :
    (start {}).memWf ∧ ControlOk (start {}) ∧ CountersOk (start {}) ∧ ∃ t, step (start {}) = .next t :=
  ⟨⟨by decide +kernel, by decide +kernel⟩, ⟨by decide +kernel, by decide +kernel, by decide +kernel, by decide +kernel⟩,
    ⟨by decide +kernel, by decide +kernel, by decide +kernel, by decide +kernel, by decide +kernel⟩,
    step_is_next _ (by decide +kernel)⟩

end Sys2Proof.Tests
end

section
/-! The register file belongs to the engine alone (10_state.md rule R22). Half of it is that no other unit writes a register; the
laws of the bus and of the units give it. The other half is that none reads one: replacing the engine before a unit's step and
replacing it after the step come to the same, shown function by function up to the three unit steps. -/

namespace Sys2Proof.Machine

/-- Replacing the engine after a choice, which the choice does not see. -/
theorem setCpu_ite (p : Prop) [Decidable p] (s t : State) (c : Cpu) :
    (if p then s else t).setCpu c = if p then s.setCpu c else t.setCpu c := apply_ite (State.setCpu · c) p s t

theorem io_setCpu (s : State) (c : Cpu) (r : IoReg) : (s.setCpu c).io r = s.io r := rfl

theorem requestIf_setCpu (s : State) (c : Cpu) (b : Bool) (q : Irq) :
    (s.setCpu c).requestIf b q = (s.requestIf b q).setCpu c := by cases b <;> rfl

/-! ## The bus step -/

theorem timerReload_setCpu (s : State) (c : Cpu) : timerReload (s.setCpu c) = (timerReload s).setCpu c := by
  simp only [timerReload, setCpu_ite]
  rfl

theorem timerIncrement_setCpu (s : State) (c : Cpu) : timerIncrement (s.setCpu c) = (timerIncrement s).setCpu c := by
  simp only [timerIncrement, setCpu_ite]
  rfl

theorem timerEdge_setCpu (s : State) (c : Cpu) : timerEdge (s.setCpu c) = (timerEdge s).setCpu c := by
  have hin : timerInput (s.setCpu c) = timerInput s := rfl
  unfold timerEdge
  simp only [hin, State.setCpu_timer, timerIncrement_setCpu, ← setCpu_ite]
  rfl

theorem timerStep_setCpu (s : State) (c : Cpu) : timerStep (s.setCpu c) = (timerStep s).setCpu c := by
  have hdiv : ∀ u : State, divStep (u.setCpu c) = (divStep u).setCpu c := fun _ => rfl
  simp only [timerStep, timerReload_setCpu, hdiv, timerEdge_setCpu]

theorem oamDmaStep_setCpu (s : State) (c : Cpu) : oamDmaStep (s.setCpu c) = (oamDmaStep s).setCpu c := by
  simp only [oamDmaStep, setCpu_ite, State.setCpu_dma, peek_setCpu, observe_setCpu]
  rfl

theorem joypadStep_setCpu (s : State) (c : Cpu) : joypadStep (s.setCpu c) = (joypadStep s).setCpu c := by
  have hlines : joypadLines (s.setCpu c) = joypadLines s := rfl
  simp only [joypadStep, hlines, State.setCpu_joy, requestIf_setCpu]
  rfl

/-- The bus step reads no register of the engine. -/
theorem busStep_setCpu (s : State) (c : Cpu) : busStep (s.setCpu c) = (busStep s).setCpu c := by
  simp only [busStep, timerStep_setCpu, oamDmaStep_setCpu, joypadStep_setCpu]

/-! ## The audio step -/

theorem onDivisor_setCpu {f : State → State} (hf : ∀ s c, f (s.setCpu c) = (f s).setCpu c) (dv : Nat) (s : State) (c : Cpu) :
    onDivisor dv f (s.setCpu c) = (onDivisor dv f s).setCpu c := by
  simp only [onDivisor, setCpu_ite, State.setCpu_audio, hf]

theorem sweepFire_setCpu (s : State) (c : Cpu) : sweepFire (s.setCpu c) = (sweepFire s).setCpu c := by
  simp only [sweepFire, setCpu_ite]
  rfl

theorem sweepStep_setCpu (s : State) (c : Cpu) : sweepStep (s.setCpu c) = (sweepStep s).setCpu c := by
  simp only [sweepStep, setCpu_ite, ← sweepFire_setCpu]
  rfl

theorem sequencerTick_setCpu (s : State) (c : Cpu) : sequencerTick (s.setCpu c) = (sequencerTick s).setCpu c := by
  simp only [sequencerTick, State.setCpu_cfg, onDivisor_setCpu (f := lengthStep) (fun _ _ => rfl),
    onDivisor_setCpu sweepStep_setCpu, onDivisor_setCpu (f := envelopeStep) (fun _ _ => rfl)]
  rfl

/-- The audio step reads no register of the engine. -/
theorem audioStep_setCpu (s : State) (c : Cpu) : audioStep (s.setCpu c) = (audioStep s).setCpu c := by
  have hchannels : ∀ u : State, channelsTick (u.setCpu c) = (channelsTick u).setCpu c := fun _ => rfl
  have hsample : ∀ u : State, sampleTick (u.setCpu c) = (sampleTick u).setCpu c := fun _ => rfl
  simp only [audioStep, sequencerTick_setCpu, hchannels, hsample]

/-! ## The video step -/

theorem bestSprite_setCpu (s : State) (c : Cpu) (x : Nat) (l : List Nat) :
    bestSprite (s.setCpu c) x l = bestSprite s x l := by
  have hpixel : ∀ k, spritePixel (s.setCpu c) x k = spritePixel s x k := fun _ => rfl
  induction l with
  | nil => rfl
  | cons k rest ih => simp only [bestSprite, hpixel, ih]

theorem spriteAt_setCpu (s : State) (c : Cpu) (x : Nat) : spriteAt (s.setCpu c) x = spriteAt s x := by
  unfold spriteAt
  rw [bestSprite_setCpu]
  rfl

theorem pixel_setCpu (s : State) (c : Cpu) (x : Nat) : pixel (s.setCpu c) x = pixel s x := by
  have hcolour : pixelColour (s.setCpu c) x = pixelColour s x := by
    unfold pixelColour; rw [spriteAt_setCpu]; rfl
  have hmono : pixelMono (s.setCpu c) x = pixelMono s x := by
    unfold pixelMono; rw [spriteAt_setCpu]; rfl
  simp only [pixel, State.setCpu_cfg, hcolour, hmono]

theorem producePixel_setCpu (x : Nat) (s : State) (c : Cpu) :
    producePixel x (s.setCpu c) = (producePixel x s).setCpu c := by
  unfold producePixel
  rw [pixel_setCpu]
  rfl

theorem setMode_setCpu (m : BitVec 2) (s : State) (c : Cpu) : setMode m (s.setCpu c) = (setMode m s).setCpu c := rfl

theorem lineCompare_setCpu (s : State) (c : Cpu) : lineCompare (s.setCpu c) = (lineCompare s).setCpu c := by
  have hstore : ∀ v, (s.setCpu c).setIo .stat v = (s.setIo .stat v).setCpu c := fun _ => rfl
  simp only [lineCompare, io_setCpu, State.setCpu_video, hstore, requestIf_setCpu]
  rfl

theorem visibleLineStart_setCpu (s : State) (c : Cpu) : visibleLineStart (s.setCpu c) = (visibleLineStart s).setCpu c := by
  have hvideo : ∀ (u : State) (v : Video), { u.setCpu c with video := v } = ({ u with video := v } : State).setCpu c :=
    fun _ _ => rfl
  have hscan : ∀ u : State, oamScan (u.setCpu c) = oamScan u := fun _ => rfl
  simp only [visibleLineStart, State.setCpu_video, hvideo, lineCompare_setCpu, hscan, setMode_setCpu, io_setCpu, requestIf_setCpu]

theorem vblankLineStart_setCpu (s : State) (c : Cpu) : vblankLineStart (s.setCpu c) = (vblankLineStart s).setCpu c := by
  have hrequest : ∀ u : State, (u.setCpu c).request .vblank = (u.request .vblank).setCpu c := fun _ => rfl
  simp only [vblankLineStart, setMode_setCpu, State.setCpu_video, hrequest, io_setCpu, requestIf_setCpu, ← setCpu_ite,
    lineCompare_setCpu]

theorem hblankDma_setCpu (s : State) (c : Cpu) : hblankDma (s.setCpu c) = (hblankDma s).setCpu c := by
  have hsrc : hdmaSrc (s.setCpu c) = hdmaSrc s := rfl
  have hdst : hdmaDst (s.setCpu c) = hdmaDst s := rfl
  simp only [hblankDma, setCpu_ite, State.setCpu_cfg, State.setCpu_hdma, hsrc, hdst, hdmaCopy_setCpu]
  rfl

theorem hblank_setCpu (s : State) (c : Cpu) : hblank (s.setCpu c) = (hblank s).setCpu c := by
  simp only [hblank, setMode_setCpu, hblankDma_setCpu, io_setCpu, requestIf_setCpu]
  rfl

theorem videoAct_setCpu (s : State) (c : Cpu) : videoAct (s.setCpu c) = (videoAct s).setCpu c := by
  simp only [videoAct, setCpu_ite, State.setCpu_video, State.setCpu_cfg, visibleLineStart_setCpu, setMode_setCpu,
    hblank_setCpu, producePixel_setCpu, vblankLineStart_setCpu]

theorem videoAdvance_setCpu (s : State) (c : Cpu) : videoAdvance (s.setCpu c) = (videoAdvance s).setCpu c := by
  simp only [videoAdvance, setCpu_ite]
  rfl

/-- The video step reads no register of the engine. -/
theorem videoStep_setCpu (s : State) (c : Cpu) : videoStep (s.setCpu c) = (videoStep s).setCpu c := by
  have hon : lcdOn (s.setCpu c) = lcdOn s := rfl
  have hoff : videoOff (s.setCpu c) = (videoOff s).setCpu c := rfl
  simp only [videoStep, hon, hoff, setCpu_ite, videoAct_setCpu, videoAdvance_setCpu]

/-! ## The frame call -/

theorem beginFrame_setCpu (s : State) (c : Cpu) : beginFrame (s.setCpu c) = (beginFrame s).setCpu c := by
  simp only [beginFrame, setCpu_ite]
  rfl

theorem endTick_setCpu (s : State) (c : Cpu) : endTick (s.setCpu c) = (endTick s).setCpu c := by
  simp only [endTick, setCpu_ite]
  rfl

theorem beginFrame_cpu (s : State) : (beginFrame s).cpu = s.cpu := by rw [beginFrame_parts]

theorem endTick_cpu (s : State) : (endTick s).cpu = s.cpu := by rw [endTick_parts]

theorem endIfStopped_cpu (s : State) : (endIfStopped s).cpu = s.cpu := by rw [endIfStopped_parts]

/-! ## The host -/

theorem replaceCartRam_cpu {bytes : List Byte} {s t : State} (h : replaceCartRam bytes s = some t) : t.cpu = s.cpu := by
  unfold replaceCartRam at h
  split at h
  · cases h; rfl
  · cases h

theorem replaceRtc_cpu {d o : Int} {s t : State} (h : replaceRtc d o s = some t) : t.cpu = s.cpu := by
  unfold replaceRtc at h
  split at h
  · cases h; rfl
  · cases h

/-- Settles O35: the units' laws for what each writes, the lemmas above for what each reads. -/
theorem onlyTheEngineWritesRegisters : Obligations.OnlyTheEngineWritesRegisters :=
  ⟨fun s _ a v _ _ _ =>
    ⟨(busStep_outside s).cpu, (audioStep_outside s).cpu, (videoStep_outside s).cpu, cpuObserve_cpu s a, cpuWrite_cpu a v s,
      busWrite_cpu a v s, beginFrame_cpu s, endTick_cpu s, endIfStopped_cpu s, replaceCartRam_cpu, replaceRtc_cpu⟩,
    fun s c a v =>
    ⟨busStep_setCpu s c, audioStep_setCpu s c, videoStep_setCpu s c, peek_setCpu s c a, observe_setCpu s c a,
      busWrite_setCpu a v s c, beginFrame_setCpu s c, endTick_setCpu s c, rfl, rfl, rfl⟩⟩

end Sys2Proof.Machine
end

section
/-! SUPPORT. The address map, one lemma a window (20_memory.md rule R64), and what an access does at each kind of place: every
statement about memory is a place and one of these rules. -/

namespace Sys2Proof.Machine

variable {s : State} {a : Word} {k : Nat}

/-! ## The windows -/

theorem place_rom (h : a.toNat < 0x8000) : place s a = .rom (romOrBoot s a.toNat) := if_pos h

theorem place_vram (h : 0x8000 ≤ a.toNat) (h' : a.toNat < 0xA000) :
    place s a = .ram (vramKey (vramBank s) a.toNat) := by
  simp (disch := omega) only [place, if_pos, if_neg]

theorem place_wramLow (h : 0xC000 ≤ a.toNat) (h' : a.toNat < 0xD000) : place s a = .ram (wramKey 0 a.toNat) := by
  simp (disch := omega) only [place, if_pos, if_neg]

theorem place_wramHigh (h : 0xD000 ≤ a.toNat) (h' : a.toNat < 0xE000) :
    place s a = .ram (wramKey (wramBank s) a.toNat) := by
  simp (disch := omega) only [place, if_pos, if_neg]

theorem place_ext (h : 0xA000 ≤ a.toNat) (h' : a.toNat < 0xC000) : place s a = extOf s a.toNat := by
  simp (disch := omega) only [place, if_pos, if_neg]

/-- An address of work RAM is a byte of some bank. -/
theorem place_wram (h : 0xC000 ≤ a.toNat) (h' : a.toNat < 0xE000) : ∃ bank, place s a = .ram (wramKey bank a.toNat) := by
  by_cases hb : a.toNat < 0xD000
  · exact ⟨_, place_wramLow h hb⟩
  · exact ⟨_, place_wramHigh (by omega) h'⟩

theorem toNat_sub_echo (h : 0xE000 ≤ a.toNat) : (a - 0x2000).toNat = a.toNat - 0x2000 := by bv_omega

/-- An echo address resolves as the address 0x2000 below it (R71). -/
theorem place_echo (h : 0xE000 ≤ a.toNat) (h' : a.toNat < 0xFE00) : place s a = place s (a - 0x2000) := by
  have hw := toNat_sub_echo h
  by_cases hb : a.toNat < 0xF000
  · rw [place_wramLow (a := a - 0x2000) (by omega) (by omega), hw]
    simp (disch := omega) only [place, if_pos, if_neg]
  · rw [place_wramHigh (a := a - 0x2000) (by omega) (by omega), hw]
    simp (disch := omega) only [place, if_pos, if_neg]

theorem place_oam (h : 0xFE00 ≤ a.toNat) (h' : a.toNat < 0xFEA0) : place s a = .ram (oamKey (a.toNat - 0xFE00)) := by
  simp (disch := omega) only [place, if_pos, if_neg]

theorem place_gap (h : 0xFEA0 ≤ a.toNat) (h' : a.toNat < 0xFF00) : place s a = .absent := by
  simp (disch := omega) only [place, if_pos, if_neg]

theorem place_hram (h : 0xFF80 ≤ a.toNat) (h' : a.toNat < 0xFFFF) : place s a = .ram a.toNat := by
  simp (disch := omega) only [place, if_pos, if_neg]

theorem place_ie (h : a.toNat = 0xFFFF) : place s a = .ie := by
  simp (disch := omega) only [place, if_neg]

/-! ## The register block -/

theorem ioKey_range (r : IoReg) : 0xFF00 ≤ ioKey r ∧ ioKey r < 0xFF80 := by
  refine ⟨Nat.le_add_right _ _, Nat.add_lt_add_left (m := 0x80) ?_ 0xFF00⟩
  cases r
  case wave i => exact Nat.add_lt_add_left (m := 0x50) (by omega) 0x30
  all_goals decide

/-- The register at an offset has that offset. -/
theorem offset_of_ioRegOf {off : Nat} {r : IoReg} (h : ioRegOf off = some r) : r.offset = off := by
  unfold ioRegOf at h
  split at h
  · cases h
    show 0x30 + (BitVec.ofNat 4 off).toNat = off
    rw [BitVec.toNat_ofNat]; omega
  · have found : ∀ l : List IoReg, l.find? (fun q => q.offset == off) = some r → r.offset = off :=
      fun l hl => by simpa using List.find?_some hl
    split at h
    · next hl => cases h; exact found _ hl
    · exact found _ h

theorem offset_mem_registerOffsets (r : IoReg) : r.offset ∈ registerOffsets := by
  cases r
  case wave i => revert i; decide
  all_goals decide

/-- At an offset that R85 does not list there is no register. -/
theorem ioRegAt_unlisted {off : Nat} (cgb : Bool) (h : off ∉ registerOffsets) : ioRegAt cgb off = none := by
  unfold ioRegAt
  split
  · next r hr => exact absurd (offset_of_ioRegOf hr ▸ offset_mem_registerOffsets r) h
  · rfl

/-- Outside colour mode there is none at the offsets of the colour-only registers. -/
theorem ioRegAt_colourOnly : ∀ off ∈ colourOffsets, ioRegAt false off = none := by decide

theorem place_block (h : 0xFF00 ≤ a.toNat) (h' : a.toNat < 0xFF80) :
    place s a = (ioRegAt s.cfg.cgb (a.toNat - 0xFF00)).elim .absent .io := by
  simp (disch := omega) only [place, if_pos, if_neg]
  split <;> next hr => rw [hr]; rfl

/-- A register's own address reaches it, in colour mode or if it is not colour-only. -/
theorem place_register (r : IoReg) (ha : a.toNat = ioKey r) (h : r.colourOnly = true → s.cfg.cgb = true) :
    place s a = .io r := by
  obtain ⟨hlo, hhi⟩ := ioKey_range r
  have hreg : ioRegAt s.cfg.cgb r.offset = some r := by
    unfold ioRegAt
    rw [ioRegOf_offset]
    cases hc : r.colourOnly
    · simp [hc]
    · simp [h hc]
  rw [place_block (by omega) (by omega), show a.toNat - 0xFF00 = r.offset by rw [ha]; exact Nat.add_sub_cancel_left .., hreg]
  rfl

/-! ## A byte of RAM -/

theorem peek_ram (h : place s a = .ram k) : peek s a = s.cell k := by unfold peek; rw [h]

theorem observe_ram (h : place s a = .ram k) : observe s a = s := by unfold observe; rw [h]

theorem busWrite_ram (h : place s a = .ram k) (v : Byte) : busWrite a v s = s.setCell k v := by unfold busWrite; rw [h]

/-- External RAM keeps the window address in the key of its byte. -/
theorem extOf_ram {n : Nat} (h : extOf s n = .ram k) : ∃ bank, k = cartRamKey bank n := by
  unfold extOf at h
  split at h
  · cases h; exact ⟨_, rfl⟩
  all_goals cases h

/-- The key of a byte of RAM is a bank and an address between the ROM windows and the register block, or an address of high
RAM. -/
theorem ram_key_cases (h : place s a = .ram k) :
    (∃ bank n, 0x8000 ≤ n ∧ n < 0xFF00 ∧ k = bank * 0x10000 + n) ∨ (0xFF80 ≤ k ∧ k < 0xFFFF) := by
  rcases Nat.lt_or_ge a.toNat 0x8000 with h1 | h1
  · rw [place_rom h1] at h; cases h
  rcases Nat.lt_or_ge a.toNat 0xA000 with h2 | h2
  · rw [place_vram h1 h2] at h; cases h; exact .inl ⟨_, _, h1, by omega, rfl⟩
  rcases Nat.lt_or_ge a.toNat 0xC000 with h3 | h3
  · rw [place_ext h2 h3] at h
    obtain ⟨bank, rfl⟩ := extOf_ram h
    exact .inl ⟨_, _, h1, by omega, rfl⟩
  have work : ∀ b : Word, 0xC000 ≤ b.toNat → b.toNat < 0xE000 → place s b = .ram k →
      ∃ bank n, 0x8000 ≤ n ∧ n < 0xFF00 ∧ k = bank * 0x10000 + n := by
    intro b hb hb' hk
    obtain ⟨bank, hp⟩ := place_wram (s := s) hb hb'
    cases hp.symm.trans hk
    exact ⟨_, _, by omega, by omega, rfl⟩
  rcases Nat.lt_or_ge a.toNat 0xE000 with h4 | h4
  · exact .inl (work a h3 h4 h)
  rcases Nat.lt_or_ge a.toNat 0xFE00 with h5 | h5
  · have hw := toNat_sub_echo h4
    exact .inl (work _ (by omega) (by omega) (place_echo h4 h5 ▸ h))
  rcases Nat.lt_or_ge a.toNat 0xFEA0 with h6 | h6
  · rw [place_oam h5 h6, Place.ram.injEq, oamKey] at h
    exact .inl ⟨0, a.toNat, h1, by omega, by omega⟩
  rcases Nat.lt_or_ge a.toNat 0xFF00 with h7 | h7
  · rw [place_gap h6 h7] at h; cases h
  rcases Nat.lt_or_ge a.toNat 0xFF80 with h8 | h8
  · rw [place_block h7 h8] at h
    cases hr : ioRegAt s.cfg.cgb (a.toNat - 0xFF00) <;> rw [hr] at h <;> cases h
  rcases Nat.lt_or_ge a.toNat 0xFFFF with h9 | h9
  · rw [place_hram h8 h9] at h; cases h; exact .inr ⟨h8, h9⟩
  · rw [place_ie (by omega)] at h; cases h

/-- No byte of RAM is a register of the block. -/
theorem ram_key_ne_ioKey (h : place s a = .ram k) (r : IoReg) : ioKey r ≠ k := by
  obtain ⟨hlo, hhi⟩ := ioKey_range r
  rcases ram_key_cases h with ⟨bank, n, hn, hn', rfl⟩ | ⟨hk, -⟩ <;> omega

/-- A write of a byte of RAM moves no bank: every address resolves as before. -/
theorem place_setCell_ram (h : place s a = .ram k) (v : Byte) (b : Word) : place (s.setCell k v) b = place s b :=
  place_congr (s := s) (t := s.setCell k v) rfl rfl rfl (State.cell_setCell_ne s v (ram_key_ne_ioKey h .vbk))
    (State.cell_setCell_ne s v (ram_key_ne_ioKey h .svbk)) b

/-- A byte of RAM reads back what was written, through any address that reaches it. -/
theorem peek_setCell_ram (h : place s a = .ram k) (v : Byte) : peek (s.setCell k v) a = v := by
  rw [peek_ram ((place_setCell_ram h v a).trans h), State.cell_setCell_self]

theorem storedAt_of_ram (h : place s a = .ram k) : StoredAt s a k :=
  ⟨peek_ram h, observe_ram h, fun v => ⟨busWrite_ram h v, by rw [busWrite_ram h]; exact peek_setCell_ram h v⟩⟩

/-! ## IE and the registers -/

theorem peek_ie (h : place s a = .ie) : peek s a = s.ie := by unfold peek; rw [h]

theorem observe_ie (h : place s a = .ie) : observe s a = s := by unfold observe; rw [h]

theorem busWrite_ie (h : place s a = .ie) (v : Byte) : busWrite a v s = { s with ie := v } := by unfold busWrite; rw [h]

theorem busWrite_register {r : IoReg} (h : place s a = .io r) (v : Byte) : busWrite a v s = ioWrite r v s := by
  unfold busWrite; rw [h]

/-! ## Nothing there -/

/-- At a place without a byte a read gives 0xFF and a write is ignored, under the OAM DMA window or not. -/
theorem nothingAt_of_place (h : place s a = .absent ∨ place s a = .denied) : NothingAt s a := by
  have hp : peek s a = 0xFF := by unfold peek; rcases h with h | h <;> rw [h] <;> rfl
  have ho : observe s a = s := by unfold observe; rcases h with h | h <;> rw [h]
  have hw : ∀ v, busWrite a v s = s := fun v => by unfold busWrite; rcases h with h | h <;> rw [h]
  refine ⟨hp, ho, ?_, ?_, fun v => ⟨hw v, ?_⟩⟩
  · unfold cpuPeek; rw [hp]; exact ite_self _
  · unfold cpuObserve; rw [ho]; exact ite_self _
  · unfold cpuWrite; rw [hw]; exact ite_self _

/-! ## The OAM DMA window (R82) -/

theorem cpuRestricted_iff : cpuRestricted s a = true ↔
    1 ≤ s.dma.left ∧ s.dma.left ≤ 159 ∧ a ≠ 0xFF46 ∧ ¬(0xFF80 ≤ a.toNat ∧ a.toNat ≤ 0xFFFE) := by
  have h159 : s.dma.left < Config.oamDmaTicks ↔ s.dma.left ≤ 159 := Nat.lt_succ_iff
  have hFFFE : a.toNat < 0xFFFF ↔ a.toNat ≤ 0xFFFE := Nat.lt_succ_iff
  simp only [cpuRestricted, Bool.and_eq_true, Bool.not_eq_true', Bool.or_eq_false_iff, decide_eq_true_eq,
    decide_eq_false_iff_not, ← Bool.decide_and, h159, hFFFE, and_assoc, Nat.succ_le_iff, ne_eq]

/-- Below the register block the window hides every address or none. -/
theorem cpuRestricted_congr {b : Word} (ha : a.toNat < 0xFF00) (hb : b.toNat < 0xFF00) :
    cpuRestricted s a = cpuRestricted s b := by
  have low : ∀ c : Word, c.toNat < 0xFF00 → (cpuRestricted s c = true ↔ 1 ≤ s.dma.left ∧ s.dma.left ≤ 159) := by
    intro c hc
    have hne : c ≠ 0xFF46 := fun e => by rw [e] at hc; exact absurd hc (by decide)
    rw [cpuRestricted_iff]
    exact ⟨fun ⟨h, h', _⟩ => ⟨h, h'⟩, fun ⟨h, h'⟩ => ⟨h, h', hne, by omega⟩⟩
  exact Bool.eq_iff_iff.2 ((low a ha).trans (low b hb).symm)

theorem cpuPeek_restricted (h : cpuRestricted s a = true) : cpuPeek s a = 0xFF := if_pos h
theorem cpuObserve_restricted (h : cpuRestricted s a = true) : cpuObserve s a = s := if_pos h
theorem cpuWrite_restricted (h : cpuRestricted s a = true) (v : Byte) : cpuWrite a v s = s := if_pos h

theorem cpuPeek_free (h : cpuRestricted s a = false) : cpuPeek s a = peek s a := if_neg (by simp [h])
theorem cpuObserve_free (h : cpuRestricted s a = false) : cpuObserve s a = observe s a := if_neg (by simp [h])
theorem cpuWrite_free (h : cpuRestricted s a = false) (v : Byte) : cpuWrite a v s = busWrite a v s := if_neg (by simp [h])

/-! ## ROM and the boot ROM over it (R65 to R67) -/

theorem inBootOverlay_iff {b : BootRom} {n : Nat} : inBootOverlay b n = true ↔
    (b = .bytes256 ∧ n ≤ 0xFF) ∨ (b = .bytes2304 ∧ (n ≤ 0xFF ∨ (0x200 ≤ n ∧ n ≤ 0x8FF))) := by
  cases b <;> simp [inBootOverlay] <;> omega

theorem peek_rom (h : a.toNat < 0x8000) :
    peek s a = (romOrBoot s a.toNat).elim Config.openBus s.cell := by
  unfold peek
  rw [place_rom h]
  cases romOrBoot s a.toNat <;> rfl

/-- A control write changes registers of the bank controller alone. -/
theorem mbcWrite_parts (n : Nat) (v : Byte) (s : State) : mbcWrite n v s = { s with mbc := (mbcWrite n v s).mbc } := by
  unfold mbcWrite; split <;> rfl

theorem triggerIf_bootMapped {f : State → State} (hf : ∀ t, (f t).bootMapped = t.bootMapped) (v : Byte) (s : State) :
    (triggerIf v f s).bootMapped = s.bootMapped := by
  unfold triggerIf; split
  · exact hf s
  · rfl

theorem hdma5Write_bootMapped (v : Byte) (s : State) : (hdma5Write v s).bootMapped = s.bootMapped := by
  unfold hdma5Write generalDma
  simp only
  rw [hdmaCopy_parts]
  split
  · rfl
  · split <;> rfl

/-- A write of a register other than `BANK` leaves the boot ROM as it is. -/
theorem ioWrite_bootMapped {r : IoReg} (h : r ≠ .bank) (v : Byte) (s : State) :
    (ioWrite r v s).bootMapped = s.bootMapped := by
  cases r
  case bank => exact absurd rfl h
  case nr14 => exact triggerIf_bootMapped (f := trigger1) (fun _ => rfl) v (storeIo .nr14 v s)
  case nr24 => exact triggerIf_bootMapped (f := trigger2) (fun _ => rfl) v (storeIo .nr24 v s)
  case nr34 => exact triggerIf_bootMapped (f := trigger3) (fun _ => rfl) v (storeIo .nr34 v s)
  case nr44 => exact triggerIf_bootMapped (f := trigger4) (fun _ => rfl) v (storeIo .nr44 v s)
  case hdma5 => exact hdma5Write_bootMapped v s
  all_goals rfl

/-- A write maps no boot ROM. -/
theorem bootMapped_of_busWrite {v : Byte} (h : (busWrite a v s).bootMapped = true) : s.bootMapped = true := by
  unfold busWrite at h
  split at h
  · rw [mbcWrite_parts] at h; exact h
  · exact h
  · exact h
  · exact h
  · next r _ =>
    by_cases hr : r = .bank
    · subst hr; exact (Bool.and_eq_true_iff.1 h).1
    · rwa [ioWrite_bootMapped hr] at h
  · exact h
  · exact h

end Sys2Proof.Machine
end

section
/-! SUPPORT. The key of a byte tells its array, its bank and its address (10_state.md rules R39, R41): a left inverse of
`StoredByte.key`, so that no two arrays are compared case by case. -/

namespace Sys2Proof.Machine

/-- The array byte whose key has bank number `b` and window address `n`. -/
def StoredByte.ofWindow (b n : Nat) : StoredByte :=
  if n < 0x4000 then
    if b = 0x1000 then .boot n else if n < 0x40 then .bgPalette n else .objPalette (n - 0x40)
  else if n < 0x8000 then .rom (b * 0x4000 + (n - 0x4000))
  else if n < 0xA000 then .vram b n
  else if n < 0xC000 then .cartRam b n
  else if n < 0xE000 then .wram b n
  else if n < 0xFF00 then .oam (n - 0xFE00)
  else if n < 0xFF80 then .register ((ioRegOf (n - 0xFF00)).getD .p1)
  else .highRam n

/-- The byte stored at a key. -/
def StoredByte.ofKey (k : Nat) : StoredByte := .ofWindow (k / 0x10000) (k % 0x10000)

theorem StoredByte.ofKey_eq {x : StoredByte} (b n : Nat) (h : x.key = b * 0x10000 + n) (hn : n < 0x10000) :
    StoredByte.ofKey x.key = .ofWindow b n := by
  rw [ofKey, show x.key / 0x10000 = b by omega, show x.key % 0x10000 = n by omega]

/-- The key of a byte tells which byte it is. -/
theorem StoredByte.ofKey_key {x : StoredByte} (h : x.Valid) : StoredByte.ofKey x.key = x := by
  cases x with
  | rom off =>
    refine (ofKey_eq (off / 0x4000) (0x4000 + off % 0x4000) (by simp only [key, romKey]; omega) (by omega)).trans ?_
    simp (disch := omega) only [ofWindow, if_pos, if_neg]
    exact congrArg StoredByte.rom (by omega)
  | boot i =>
    have hi : i < 2304 := h
    refine (ofKey_eq 0x1000 i rfl (by omega)).trans ?_
    simp (disch := omega) only [ofWindow, if_pos, if_true]
  | vram bank n =>
    obtain ⟨hn, hn'⟩ : 0x8000 ≤ n ∧ n ≤ 0x9FFF := h
    refine (ofKey_eq bank n rfl (by omega)).trans ?_
    simp (disch := omega) only [ofWindow, if_pos, if_neg]
  | cartRam bank n =>
    obtain ⟨hn, hn'⟩ : 0xA000 ≤ n ∧ n ≤ 0xBFFF := h
    refine (ofKey_eq bank n rfl (by omega)).trans ?_
    simp (disch := omega) only [ofWindow, if_pos, if_neg]
  | wram bank n =>
    obtain ⟨hn, hn'⟩ : 0xC000 ≤ n ∧ n ≤ 0xDFFF := h
    refine (ofKey_eq bank n rfl (by omega)).trans ?_
    simp (disch := omega) only [ofWindow, if_pos, if_neg]
  | oam i =>
    have hi : i < 160 := h
    refine (ofKey_eq 0 (0xFE00 + i) (by simp only [key, oamKey]; omega) (by omega)).trans ?_
    simp (disch := omega) only [ofWindow, if_pos, if_neg, Nat.add_sub_cancel_left]
  | register r =>
    obtain ⟨hlo, hhi⟩ := ioKey_range r
    refine (ofKey_eq 0 (ioKey r) (by simp only [key]; omega) (by omega)).trans ?_
    simp (disch := omega) only [ofWindow, if_pos, if_neg]
    rw [ioKey, Nat.add_sub_cancel_left, ioRegOf_offset, Option.getD_some]
  | highRam n =>
    obtain ⟨hn, hn'⟩ : 0xFF80 ≤ n ∧ n ≤ 0xFFFE := h
    refine (ofKey_eq 0 n (by simp only [key]; omega) (by omega)).trans ?_
    simp (disch := omega) only [ofWindow, if_neg]
  | bgPalette i =>
    have hi : i < 64 := h
    refine (ofKey_eq 0x1001 i rfl (by omega)).trans ?_
    simp (disch := omega) only [ofWindow, if_pos, if_neg]
  | objPalette i =>
    have hi : i < 64 := h
    refine (ofKey_eq 0x1001 (0x40 + i) (by simp only [key, objPalKey]; omega) (by omega)).trans ?_
    simp (disch := omega) only [ofWindow, if_pos, if_neg, Nat.add_sub_cancel_left]

/-- Bytes of the arrays with one key are one byte. -/
theorem StoredByte.key_inj {x y : StoredByte} (hx : x.Valid) (hy : y.Valid) (h : x.key = y.key) : x = y := by
  rw [← ofKey_key hx, h, ofKey_key hy]

theorem romKey_inj {o o' : Nat} (h : romKey o = romKey o') : o = o' :=
  StoredByte.rom.inj (StoredByte.key_inj (x := .rom o) (y := .rom o') trivial trivial h)

end Sys2Proof.Machine
end

section
/-! The statements of 20_memory.md about what an address reaches. -/

namespace Sys2Proof.Machine

/-! ## Echo RAM and unmapped addresses -/

/-- Two addresses below the register block that resolve to one byte of RAM are accessed alike. -/
theorem accesses_eq_of_same_ram {s : State} {a w : Word} {k : Nat} (ha : place s a = .ram k) (hw : place s w = .ram k)
    (hal : a.toNat < 0xFF00) (hwl : w.toNat < 0xFF00) (v : Byte) :
    peek s a = peek s w ∧ observe s a = observe s w ∧ busWrite a v s = busWrite w v s ∧
    cpuPeek s a = cpuPeek s w ∧ cpuObserve s a = cpuObserve s w ∧ cpuWrite a v s = cpuWrite w v s := by
  have hr : cpuRestricted s a = cpuRestricted s w := cpuRestricted_congr hal hwl
  have hp : peek s a = peek s w := (peek_ram ha).trans (peek_ram hw).symm
  have ho : observe s a = observe s w := (observe_ram ha).trans (observe_ram hw).symm
  have hb : busWrite a v s = busWrite w v s := (busWrite_ram ha v).trans (busWrite_ram hw v).symm
  exact ⟨hp, ho, hb, by rw [cpuPeek, cpuPeek, hr, hp], by rw [cpuObserve, cpuObserve, hr, ho],
    by rw [cpuWrite, cpuWrite, hr, hb]⟩

/-- A byte written through one of them reads back through the other, for the bus and for a CPU the window does not restrict. -/
theorem readback_of_same_ram {s : State} {a w : Word} {k : Nat} (ha : place s a = .ram k) (hw : place s w = .ram k)
    (v : Byte) : peek (busWrite w v s) a = v ∧
    (cpuRestricted s a = false → cpuRestricted s w = false → cpuPeek (cpuWrite w v s) a = v) := by
  have hp : peek (busWrite w v s) a = v := by rw [busWrite_ram hw]; exact peek_setCell_ram ha v
  refine ⟨hp, fun har hwr => ?_⟩
  rw [cpuWrite_free hwr, cpuPeek_free (by rw [busWrite_ram hw]; exact har), hp]

/-- Settles O36: an echo address and the address below it are one place; the gap, the unlisted offsets and, outside colour mode,
the colour-only registers are no place. -/
theorem echoAndUnmapped : Obligations.EchoAndUnmapped := by
  refine ⟨fun s a v h h' => ?_, fun s a => ⟨fun h h' => ?_, fun h h' hoff => ?_, fun h h' hoff hcgb => ?_⟩⟩
  · have hwn := toNat_sub_echo h
    obtain ⟨bank, hw⟩ := place_wram (s := s) (a := a - 0x2000) (by omega) (by omega)
    have ha := (place_echo (s := s) h (by omega)).trans hw
    have hr : cpuRestricted s a = cpuRestricted s (a - 0x2000) := cpuRestricted_congr (by omega) (by omega)
    obtain ⟨hp, ho, hb, hcp, hco, hcw⟩ := accesses_eq_of_same_ram ha hw (by omega) (by omega) v
    obtain ⟨hwa, hcwa⟩ := readback_of_same_ram ha hw v
    obtain ⟨haw, hcaw⟩ := readback_of_same_ram hw ha v
    exact ⟨hwn, hp, ho, hb, hcp, hco, hcw, hwa, haw, fun hf => ⟨hcwa hf (hr ▸ hf), hcaw (hr ▸ hf) hf⟩⟩
  · exact nothingAt_of_place (.inl (place_gap h (by omega)))
  · refine nothingAt_of_place (.inl ?_)
    rw [place_block h (by omega), ioRegAt_unlisted _ hoff]; rfl
  · refine nothingAt_of_place (.inl ?_)
    rw [place_block h (by omega), hcgb, ioRegAt_colourOnly _ hoff]; rfl

/-! ## RAM, the bank selectors and IE -/

theorem vramBank_eq (s : State) :
    vramBank s = if s.cfg.cgb = true ∧ (s.io .vbk).getLsbD 0 = true then 1 else 0 := by
  have hbit : (s.io .vbk).getLsbD 0 = decide ((s.io .vbk).toNat % 2 = 1) := by
    rw [BitVec.getLsbD, Nat.testBit_zero]
  unfold vramBank
  cases s.cfg.cgb
  · rfl
  · rw [hbit]
    simp only [true_and, if_true, decide_eq_true_eq]
    split <;> omega

theorem wramBank_mono {s : State} (h : s.cfg.cgb = false) : wramBank s = 1 := by
  unfold wramBank; rw [h]; rfl

theorem wramBank_colour {s : State} (h : s.cfg.cgb = true) (hb : (s.io .svbk).toNat % 8 < s.cfg.wramBanks) :
    wramBank s = if (s.io .svbk).toNat % 8 = 0 then 1 else (s.io .svbk).toNat % 8 := by
  simp only [wramBank, h, if_true, Nat.not_le.2 hb, or_false]

/-- Settles O37: each window's address is the byte of RAM its place names, and a key tells its byte. -/
theorem plainStorage : Obligations.PlainStorage := by
  refine ⟨fun s a => ⟨fun h h' => ?_, fun h h' => ?_, fun h h' => ?_, fun h h' => ?_, fun h h' => ?_, fun h => ?_⟩,
    fun s => ⟨vramBank_eq s, wramBank_mono, wramBank_colour⟩, State.cell_setCell, fun x y => StoredByte.key_inj⟩
  · exact storedAt_of_ram (place_vram h (by omega))
  · exact storedAt_of_ram (place_wramLow h (by omega))
  · exact storedAt_of_ram (place_wramHigh h (by omega))
  · exact storedAt_of_ram (place_oam h (by omega))
  · exact storedAt_of_ram (place_hram h (by omega))
  · have hp := place_ie (s := s) h
    exact ⟨peek_ie hp, observe_ie hp, busWrite_ie hp⟩

/-! ## The OAM DMA window -/

/-- Settles O38: the window restricts exactly the hidden accesses, and the interrupt controller reads no memory. -/
theorem oamDmaWindow : Obligations.OamDmaWindow := by
  refine fun s a v => ⟨fun h => ?_, fun h => ?_, fun _ => rfl⟩
  · have hr := cpuRestricted_iff.2 h
    refine ⟨cpuPeek_restricted hr, cpuObserve_restricted hr, cpuWrite_restricted hr v, fun hpc => ?_⟩
    rw [fetch8_eq, hpc, cpuPeek_restricted hr, cpuObserve_restricted hr]
  · have hr := Bool.eq_false_iff.2 fun hr => h (cpuRestricted_iff.1 hr)
    refine ⟨cpuPeek_free hr, cpuObserve_free hr, cpuWrite_free hr v, fun hpc => ?_⟩
    rw [fetch8_eq, hpc, cpuPeek_free hr, cpuObserve_free hr]

/-! ## ROM -/

/-- While the boot ROM is mapped it answers within its image. -/
theorem romOrBoot_boot {s : State} {n : Nat} (hm : s.bootMapped = true) (ho : inBootOverlay s.cfg.boot n = true) :
    romOrBoot s n = some (bootKey n) := by
  rw [romOrBoot, hm, ho]; rfl

/-- Otherwise the cartridge does, within its image. -/
theorem romOrBoot_cartridge {s : State} {n : Nat} (h : ¬(s.bootMapped = true ∧ inBootOverlay s.cfg.boot n = true)) :
    romOrBoot s n = if romOffset s n < s.cfg.romSize then some (romKey (romOffset s n)) else none :=
  if_neg (by rwa [Bool.and_eq_true])

/-- Settles O40: the place of a ROM address is the boot ROM's byte, the cartridge's or none, and of all writes only those of
`BANK` touch the mapping. -/
theorem romReads : Obligations.RomReads := by
  refine ⟨fun s a v h => ?_, fun s v => ?_, fun s a v => bootMapped_of_busWrite, fun o o' => romKey_inj⟩
  · have hn : a.toNat < 0x8000 := by omega
    simp only [← inBootOverlay_iff, peek_rom hn]
    refine ⟨fun ⟨hm, ho⟩ => ?_, fun hb hlt => ?_, fun hb hle => ?_, ?_⟩
    · rw [romOrBoot_boot hm ho]; rfl
    · rw [romOrBoot_cartridge hb, if_pos hlt]; rfl
    · rw [romOrBoot_cartridge hb, if_neg (by omega)]; rfl
    · unfold busWrite; rw [place_rom hn]; exact mbcWrite_parts _ v s
  · rw [busWrite_register (place_register .bank rfl nofun)]; rfl

end Sys2Proof.Machine
end

section
/-! The trigger registers of the audio unit (20_memory.md rule R79, 60_exceptions.md rule R354). -/

namespace Sys2Proof.Machine

theorem bit_seven (v : Byte) : bit v 7 = decide (128 ≤ v.toNat) := by
  rw [bit, ← BitVec.msb_eq_getLsbD_last v, BitVec.msb_eq_decide]

theorem triggerIf_low {v : Byte} (h : v.toNat < 128) (f : State → State) (s : State) : triggerIf v f s = s :=
  if_neg (by simp [bit_seven, h])

theorem triggerIf_high {v : Byte} (h : 128 ≤ v.toNat) (f : State → State) (s : State) : triggerIf v f s = f s :=
  if_pos (by simp [bit_seven, h])

/-- The period value as a number: the three low bits of the high register, then the low register. -/
theorem toNat_periodValue (lo hi : Byte) : (periodValue lo hi).toNat = hi.toNat % 8 * 256 + lo.toNat := by
  rw [periodValue, BitVec.toNat_append, ← Nat.shiftLeft_add_eq_or_of_lt lo.isLt, Nat.shiftLeft_eq,
    BitVec.extractLsb'_toNat, Nat.shiftRight_zero]

theorem periodValue_eq (lo hi : Byte) : periodValue lo hi = BitVec.ofNat 11 (hi.toNat % 8 * 256 + lo.toNat) := by
  rw [← toNat_periodValue, BitVec.ofNat_toNat, BitVec.setWidth_eq]

/-- The store of a register leaves every other register. -/
theorem storeIo_io_ne {r r' : IoReg} (h : r' ≠ r) (v : Byte) (s : State) : (storeIo r v s).io r' = s.io r' :=
  State.io_setIo_ne s _ h

/-- A trigger stores nothing in the register block. -/
theorem trigger1_io (s : State) (r : IoReg) : (trigger1 s).io r = s.io r := rfl
theorem trigger2_io (s : State) (r : IoReg) : (trigger2 s).io r = s.io r := rfl
theorem trigger3_io (s : State) (r : IoReg) : (trigger3 s).io r = s.io r := rfl

/-- Settles O52: a trigger register's write stores the register and then, with the start bit, runs the trigger, whose period is
read after the store while every other register it reads is as before. -/
theorem audioTrigger : Obligations.AudioTrigger := by
  intro s v
  have h14 := busWrite_register (place_register (s := s) (a := 0xFF14) .nr14 rfl nofun) v
  have h19 := busWrite_register (place_register (s := s) (a := 0xFF19) .nr24 rfl nofun) v
  have h1E := busWrite_register (place_register (s := s) (a := 0xFF1E) .nr34 rfl nofun) v
  have h23 := busWrite_register (place_register (s := s) (a := 0xFF23) .nr44 rfl nofun) v
  simp only [h14, h19, h1E, h23, ioWrite]
  refine ⟨fun h => ?_, fun h => ?_⟩
  · simp only [triggerIf_low h]; exact ⟨rfl, rfl, rfl, rfl⟩
  · simp only [triggerIf_high h, trigger1_io, trigger2_io, trigger3_io]
    refine ⟨?_, ?_, ?_, ?_⟩
    · simp (disch := decide) only [trigger1, pulseReload, periodOf1, toNat_periodValue, triggerEnvelope, storeIo_io_ne]
      rw [periodValue_eq]
      rfl
    · simp (disch := decide) only [trigger2, pulseReload, periodOf2, toNat_periodValue, triggerEnvelope, storeIo_io_ne]
      rfl
    · simp (disch := decide) only [trigger3, waveReload, periodOf3, toNat_periodValue, storeIo_io_ne]
      rfl
    · simp (disch := decide) only [trigger4, noiseReload, triggerEnvelope, storeIo_io_ne]
      rfl

end Sys2Proof.Machine
end

section
/-! The 8-bit loads and stores (40_load8.md rules R150 to R168): each is one register, immediate or memory read, or one memory
write, and the four forms that move `HL` do so after the access. -/

namespace Sys2Proof.Machine

variable {s : State}

/-! ## Shared shapes -/

/-- Three bytes are an instruction if the first one says so (30_encoding.md rule R121). -/
theorem decode_three_bytes {op : Byte} (hlen : instrLength op = 3) (b1 b2 : Byte) (rest : List Byte) :
    decode (op :: b1 :: b2 :: rest) = .ok (decodeOp op b1 b2, rest) := by
  simp only [decode, hlen]

/-- A 16-bit immediate is read back from its two bytes, the low one first (R123). -/
theorem decode_immediate16 {op : Byte} {mk : Word → Instr} (hlen : instrLength op = 3)
    (hop : ∀ lo hi, decodeOp op lo hi = mk (join16 hi lo)) (w : Word) :
    decode (op :: immediate16 w) = .ok (mk w, []) :=
  (decode_three_bytes hlen (loByte w) (hiByte w) []).trans (by rw [hop, join16_bytes])

/-- `0xFF00 + n` with `n` zero-extended (R161, R163). -/
theorem highPage_eq (n : Byte) : highPage n = 0xFF00 + n.zeroExtend 16 := by
  have hn := n.isLt
  refine BitVec.eq_of_toNat_eq ?_
  rw [highPage, toNat_join16, BitVec.toNat_add, BitVec.toNat_setWidth]
  change 255 * 256 + n.toNat = (65280 + n.toNat % 65536) % 65536
  omega

/-- A load of `A` is one CPU read. -/
theorem runs_loadA {i : Instr} {bs : List Byte} {n : Nat} {a : Word} (henc : encode i = bs) (hdec : decode bs = .ok (i, []))
    (hexec : exec i s = finish n (loadReg .a a s)) : Runs i bs s n ((cpuObserve s a).withA (cpuPeek s a)) :=
  ⟨henc, hdec, by rw [hexec, loadReg_eq, finish_eq]; rfl⟩

/-- A load of `A` from `HL` leaves `HL` for the update that follows it. -/
theorem runs_loadA_setHl {i : Instr} {bs : List Byte} {n : Nat} (f : Word → Word) (henc : encode i = bs)
    (hdec : decode bs = .ok (i, []))
    (hexec : exec i s = finish n ((loadReg .a s.hl s).setHl (f (loadReg .a s.hl s).hl))) :
    Runs i bs s n (((cpuObserve s s.hl).withA (cpuPeek s s.hl)).setHl (f s.hl)) := by
  have hhl : (loadReg .a s.hl s).hl = s.hl := cpuObserve_hl s s.hl
  exact ⟨henc, hdec, by rw [hexec, hhl, loadReg_eq, finish_eq]; rfl⟩

/-- A store of `A` at `HL` leaves `HL` for the update that follows it. -/
theorem runs_storeA_setHl {i : Instr} {bs : List Byte} {n : Nat} (f : Word → Word) (henc : encode i = bs)
    (hdec : decode bs = .ok (i, []))
    (hexec : exec i s = finish n ((cpuWrite s.hl s.cpu.a s).setHl (f (cpuWrite s.hl s.cpu.a s).hl))) :
    Runs i bs s n ((cpuWrite s.hl s.cpu.a s).setHl (f s.hl)) :=
  ⟨henc, hdec, by rw [hexec, cpuWrite_hl, finish_eq]⟩

/-! ## The statements -/

/-- Settles O4: the encoding is checked register by register. -/
theorem registerLoads : Obligations.RegisterLoads := by
  refine fun s rd rs r n => ⟨?_, ?_⟩
  · cases rd <;> cases rs <;> exact ⟨rfl, rfl, rfl⟩
  · cases r <;> exact ⟨rfl, rfl, rfl⟩

/-- Settles O5: seven of the eight are loads of `A`, two of them followed by the update of `HL`. -/
theorem memoryLoads : Obligations.MemoryLoads := by
  intro s r a n
  simp only [← highPage_eq]
  refine ⟨?_, runs_loadA rfl rfl rfl, runs_loadA rfl rfl rfl,
    runs_loadA rfl (decode_immediate16 rfl (fun _ _ => rfl) a) rfl, runs_loadA rfl rfl rfl, runs_loadA rfl rfl rfl,
    runs_loadA_setHl (· - 1) rfl rfl rfl, runs_loadA_setHl (· + 1) rfl rfl rfl⟩
  cases r <;> exact ⟨rfl, rfl, rfl⟩

/-- Settles O6: each store is one CPU write, two of them followed by the update of `HL`. -/
theorem memoryStores : Obligations.MemoryStores := by
  intro s r a n
  simp only [← highPage_eq]
  refine ⟨?_, ⟨rfl, rfl, rfl⟩, ⟨rfl, rfl, rfl⟩, ⟨rfl, rfl, rfl⟩,
    ⟨rfl, decode_immediate16 rfl (fun _ _ => rfl) a, rfl⟩, ⟨rfl, rfl, rfl⟩, ⟨rfl, rfl, rfl⟩,
    runs_storeA_setHl (· - 1) rfl rfl rfl, runs_storeA_setHl (· + 1) rfl rfl rfl⟩
  cases r <;> exact ⟨rfl, rfl, rfl⟩

end Sys2Proof.Machine
end

section
/-! The 16-bit loads and the stack (41_load16_stack.md rules R175 to R181): register updates, two CPU writes in ascending
addresses, and the shared push and pop; `AF` is `A` with the flag byte, whose low nibble is 0. -/

namespace Sys2Proof.Machine

/-! ## An offset from the stack pointer -/

/-- The sum with a sign-extended byte is the sum of the integers, modulo 2^16 (00_scope.md rule R7). -/
theorem offset16_eq (v : Word) (e : Byte) : offset16 v e = BitVec.ofInt 16 ((v.toNat : Int) + e.toInt) := by
  rw [BitVec.ofInt_add, BitVec.ofInt_natCast, BitVec.ofNat_toNat, BitVec.setWidth_eq]
  rfl

theorem addSpOffset_isSpSum (sp : Word) (e : Byte) : IsSpSum sp e (addSpOffset sp e).1 (addSpOffset sp e).2 :=
  ⟨offset16_eq sp e, rfl, rfl, decide_eq_true_iff, decide_eq_true_iff⟩

/-! ## The flag register as a byte (10_state.md rules R23, R24) -/

/-- Bits 0 to 3 are 0, bits 4 to 7 are C, H, N, Z. -/
theorem Flags.getLsbD_toByte (f : Flags) :
    ∀ k < 8, f.toByte.getLsbD k = [false, false, false, false, f.c, f.h, f.n, f.z].getD k false := by
  rcases f with ⟨_ | _, _ | _, _ | _, _ | _⟩ <;> decide

theorem Flags.toByte_ofByte (v : Byte) : (Flags.ofByte v).toByte = v &&& 0xF0 := by
  refine BitVec.eq_of_getLsbD_eq fun k hk => ?_
  rw [Flags.getLsbD_toByte _ k hk, BitVec.getLsbD_and]
  interval_cases k <;> simp [Flags.ofByte]

theorem Flags.toByte_and_lowMask (f : Flags) : f.toByte &&& 0x0F = 0 := by
  refine BitVec.eq_of_getLsbD_eq fun k hk => ?_
  rw [BitVec.getLsbD_and, Flags.getLsbD_toByte _ k hk]
  interval_cases k <;> simp

/-! ## The statements -/

/-- Settles O7: each runs as its rule says, pair by pair; the offset load has the sum and the flags of `addSpOffset_isSpSum`. -/
theorem wordLoads : Obligations.WordLoads := by
  refine fun s p n e => ⟨?_, ⟨rfl, decode_immediate16 rfl (fun _ _ => rfl) n, rfl⟩, ⟨rfl, rfl, rfl⟩,
    _, _, addSpOffset_isSpSum s.cpu.sp e, ⟨rfl, rfl, rfl⟩⟩
  cases p <;> exact ⟨rfl, decode_immediate16 rfl (fun _ _ => rfl) n, rfl⟩

/-- Settles O8: the shared push and pop, and the flag byte's low nibble; a pop of `AF` takes the flags `Flags.ofByte` reads from
the low byte. -/
theorem pushAndPop : Obligations.PushAndPop := by
  intro s q
  have hpush : exec (.pushRs q) s = .next ((s.pushed (s.stackPair q)).lasting 16) := by
    rw [← push16_eq]; rfl
  have hpop : exec (.popRs q) s = .next ((s.popped.2.setStackPair q s.popped.1).lasting 12) := by
    rw [← pop16_eq]; rfl
  have hpopAf : exec .popAf s = .next ((s.popped.2.setStackPair .af s.popped.1).lasting 12) := by
    rw [← pop16_eq]; rfl
  refine ⟨?_, fun hq => ?_, ⟨Flags.ofByte (loByte s.popped.1), Flags.toByte_ofByte _, ⟨rfl, rfl, hpopAf⟩⟩, rfl,
    Flags.toByte_and_lowMask _⟩
  · cases q <;> exact ⟨rfl, rfl, hpush⟩
  · cases q
    case af => exact absurd rfl hq
    all_goals exact ⟨rfl, rfl, hpop⟩

end Sys2Proof.Machine
end

section
/-! The 8-bit arithmetic and logic (42_alu8.md rules R190 to R224): each function of the group as numbers, each operation on `A`
in its three forms, and the adjustments. -/

namespace Sys2Proof.Machine

/-! ## The functions of the group as numbers -/

/-- `u8` of an integer (00_scope.md rule R7). -/
theorem toNat_ofInt_byte (i : Int) : ((BitVec.ofInt 8 i).toNat : Int) = i % 256 := by
  rw [BitVec.toNat_ofInt]
  exact Int.toNat_of_nonneg (Int.emod_nonneg i (by decide))

theorem decide_eq_zero_iff (v : Byte) : decide (v = 0) = true ↔ v.toNat = 0 :=
  decide_eq_true_iff.trans BitVec.toNat_inj.symm

theorem add8_isAdd8 (a b : Byte) (cin : Bool) : IsAdd8 a b (bitNat cin) (add8 a b cin).1 (add8 a b cin).2 :=
  ⟨BitVec.toNat_ofNat _ _, decide_eq_zero_iff _, rfl, decide_eq_true_iff, decide_eq_true_iff⟩

theorem sub8_isSub8 (a b : Byte) (cin : Bool) : IsSub8 a b (bitNat cin) (sub8 a b cin).1 (sub8 a b cin).2 :=
  ⟨toNat_ofInt_byte _, decide_eq_zero_iff _, rfl, decide_eq_true_iff, decide_eq_true_iff⟩

/-- A difference without a borrow-in is 0 for equal operands only. -/
theorem IsSub8.z_iff_eq {a b r : Byte} {f : Flags} (h : IsSub8 a b 0 r f) : f.z = true ↔ a = b := by
  obtain ⟨hr, hz, _⟩ := h
  have ha := a.isLt
  have hb := b.isLt
  rw [hz, ← BitVec.toNat_inj]
  omega

/-- A difference without a borrow-in borrows when the first operand is the smaller. -/
theorem IsSub8.c_iff_lt {a b r : Byte} {f : Flags} (h : IsSub8 a b 0 r f) : f.c = true ↔ a.toNat < b.toNat := by
  obtain ⟨_, _, _, _, hc⟩ := h
  exact hc

theorem inc8_toNat (x : Byte) (f : Flags) : (inc8 x f).1.toNat = (x.toNat + 1) % 256 := BitVec.toNat_add x 1

theorem inc8_z (x : Byte) (f : Flags) : (inc8 x f).2.z = true ↔ (x.toNat + 1) % 256 = 0 := by
  rw [← inc8_toNat x f]
  exact decide_eq_zero_iff _

theorem dec8_toNat (x : Byte) (f : Flags) : (dec8 x f).1.toNat = (x.toNat + 255) % 256 := by
  rw [Nat.add_comm]
  exact BitVec.toNat_sub x 1

theorem dec8_z (x : Byte) (f : Flags) : (dec8 x f).2.z = true ↔ x.toNat = 1 := by
  have hx := x.isLt
  have hz : (dec8 x f).2.z = true ↔ (dec8 x f).1.toNat = 0 := decide_eq_zero_iff _
  rw [hz, dec8_toNat]
  omega

/-! ## The three forms of an operation on `A` -/

/-- The register and the `(HL)` forms of `alu[y]`, as the table lists them (30_encoding.md rule R124). -/
theorem encode_decode_alu : ∀ y z : BitVec 3,
    encode (decodeAlu y.toNat z.toNat) = [bits233 2 y z] ∧
    decode [bits233 2 y z] = .ok (decodeAlu y.toNat z.toNat, []) := by decide

/-- The immediate form of `alu[y]` (R125). -/
theorem encode_decode_aluN8 (y : BitVec 3) (n : Byte) :
    encode (decodeAluN8 y.toNat n) = [bits233 3 y 6, n] ∧
    decode [bits233 3 y 6, n] = .ok (decodeAluN8 y.toNat n, []) := by
  rcases Laws.Length.bits3 y with rfl | rfl | rfl | rfl | rfl | rfl | rfl | rfl <;> exact ⟨rfl, rfl⟩

theorem reg8Of_bits (r : Reg8) : reg8Of r.bits.toNat = some r := by cases r <;> rfl

/-- An operation on `A` and the byte at `HL` reads once, then writes `A` and `F`. -/
theorem aluHl_eq (f : Byte → Byte → Byte × Flags) (s : State) : aluHl f s =
    (cpuObserve s s.hl).withAF (f s.cpu.a (cpuPeek s s.hl)).1 (f s.cpu.a (cpuPeek s s.hl)).2 := by
  rw [aluHl, cpuRead, cpuObserve_cpu]
  rfl

/-- A row `alu[y]` of the tables whose three forms compute `op` has the property `P` if `op` has it. What the tables list and what
the meanings compute is checked where a row is named. -/
theorem aluForms_of {onReg : Reg8 → Instr} {onHl : Instr} {onImm : Byte → Instr} {y : BitVec 3}
    {P : Byte → Flags → Byte → Byte → Flags → Prop} {s : State} (op : Byte → Byte → Byte × Flags)
    (hop : ∀ x, P s.cpu.a s.cpu.f x (op s.cpu.a x).1 (op s.cpu.a x).2)
    (hrow : ∀ z, decodeAlu y.toNat z = orHl (reg8Of z) onReg onHl := by intro; rfl)
    (himm : ∀ n, decodeAluN8 y.toNat n = onImm n := by intro; rfl)
    (execReg : ∀ r, exec (onReg r) s = finish 4 (setAF (op s.cpu.a (s.reg r)) s) := by intro; rfl)
    (execHl : exec onHl s = finish 8 (aluHl op s) := by rfl)
    (execImm : ∀ n, exec (onImm n) s = finish 8 (setAF (op s.cpu.a n) s) := by intro; rfl) :
    AluForms onReg onHl onImm y P s := by
  refine ⟨fun r => ⟨_, _, hop (s.reg r), ?_⟩, ⟨_, _, hop (cpuPeek s s.hl), ?_⟩, fun n => ⟨_, _, hop n, ?_⟩⟩
  · obtain ⟨henc, hdec⟩ := encode_decode_alu y r.bits
    rw [hrow, reg8Of_bits] at henc hdec
    exact ⟨henc, hdec, execReg r⟩
  · obtain ⟨henc, hdec⟩ := encode_decode_alu y 6
    rw [hrow] at henc hdec
    exact ⟨henc, hdec, by rw [execHl, aluHl_eq, finish_eq]⟩
  · obtain ⟨henc, hdec⟩ := encode_decode_aluN8 y n
    rw [himm] at henc hdec
    exact ⟨henc, hdec, execImm n⟩

/-! ## The operations on `A` and the comparison -/

/-- Settles O9: both are `add8`, with the carry-in 0 or the carry flag. -/
theorem addAndAdc : Obligations.AddAndAdc := fun s =>
  ⟨aluForms_of (fun a x => add8 a x false) (fun x => add8_isAdd8 _ x _),
    aluForms_of (fun a x => add8 a x s.cpu.f.c) (fun x => add8_isAdd8 _ x _)⟩

/-- Settles O10: both are `sub8`, with the borrow-in 0 or the carry flag. -/
theorem subAndSbc : Obligations.SubAndSbc := fun s =>
  ⟨aluForms_of (fun a x => sub8 a x false) (fun x => sub8_isSub8 _ x _),
    aluForms_of (fun a x => sub8 a x s.cpu.f.c) (fun x => sub8_isSub8 _ x _)⟩

/-- Settles O11: a bit of the result is the operation of the two bits. -/
theorem logicOperations : Obligations.LogicOperations := fun _ =>
  ⟨aluForms_of and8 (fun _ => ⟨fun _ _ => BitVec.getLsbD_and, rfl⟩),
    aluForms_of xor8 (fun _ => ⟨fun _ _ => BitVec.getLsbD_xor, rfl⟩),
    aluForms_of or8 (fun _ => ⟨fun _ _ => BitVec.getLsbD_or, rfl⟩)⟩

/-- Settles O12: the flags are those of `sub8` without a borrow-in. -/
theorem compare : Obligations.Compare := by
  intro s r n
  have hsub := fun x => sub8_isSub8 s.cpu.a x false
  refine ⟨⟨_, _, hsub (s.reg r), ?_, (hsub _).z_iff_eq, (hsub _).c_iff_lt⟩, ⟨_, _, hsub (cpuPeek s s.hl), rfl, rfl, ?_⟩,
    ⟨_, _, hsub n, rfl, rfl, rfl⟩⟩
  · cases r <;> exact ⟨rfl, rfl, rfl⟩
  · rw [← cpuObserve_cpu s s.hl]
    rfl

/-! ## Increment and decrement -/

/-- Settles O13: the functions `inc8` and `dec8` of a register's value or of the byte at `HL`. -/
theorem incrementAndDecrement : Obligations.IncrementAndDecrement := by
  intro s r isInc isDec
  have hinc : ∀ x, isInc x (inc8 x s.cpu.f).1 (inc8 x s.cpu.f).2 := fun x =>
    ⟨inc8_toNat x _, inc8_z x _, rfl, decide_eq_true_iff, rfl⟩
  have hdec : ∀ x, isDec x (dec8 x s.cpu.f).1 (dec8 x s.cpu.f).2 := fun x =>
    ⟨dec8_toNat x _, dec8_z x _, rfl, decide_eq_true_iff, rfl⟩
  refine ⟨⟨_, _, hinc (s.reg r), ?_⟩, ⟨_, _, hinc (cpuPeek s s.hl), rfl, rfl, ?_⟩, ⟨_, _, hdec (s.reg r), ?_⟩,
    ⟨_, _, hdec (cpuPeek s s.hl), rfl, rfl, ?_⟩⟩
  · cases r <;> exact ⟨rfl, rfl, rfl⟩
  · exact congrArg (finish 12) (modifyHl_eq (fun v => inc8 v s.cpu.f) s)
  · cases r <;> exact ⟨rfl, rfl, rfl⟩
  · exact congrArg (finish 12) (modifyHl_eq (fun v => dec8 v s.cpu.f) s)

/-! ## Adjustments -/

/-- `DAA` after an addition. -/
theorem daaAdjust_of_add {f : Flags} (h : f.n = false) (a : Byte) :
    (daaAdjust a f).1 = ((a.toNat + (if f.c = true ∨ a.toNat > 0x99 then 0x60 else 0) +
      (if f.h = true ∨ lowNibble a > 9 then 6 else 0) : Nat) : Int) ∧
    ((daaAdjust a f).2 = true ↔ f.c = true ∨ a.toNat > 0x99) := by
  simp only [daaAdjust, h, Bool.or_eq_true, decide_eq_true_eq, Bool.false_eq_true, if_false, and_true]
  split_ifs <;> omega

/-- `DAA` after a subtraction. -/
theorem daaAdjust_of_sub {f : Flags} (h : f.n = true) (a : Byte) :
    (daaAdjust a f).1 = (a.toNat : Int) - (if f.c then 0x60 else 0) - (if f.h then 6 else 0) ∧
    (daaAdjust a f).2 = f.c := by
  simp only [daaAdjust, h, if_true, and_true]
  split_ifs <;> omega

/-- Settles O14: `DAA` branch by branch on its unbounded integer, whose `u8` is the new `A`. -/
theorem adjustments : Obligations.Adjustments := by
  intro s a f high
  have hv : ((daa8 s.cpu.a f).1.toNat : Int) = (daaAdjust s.cpu.a f).1 % 256 := toNat_ofInt_byte _
  have hz : (daa8 s.cpu.a f).2.z = decide ((daa8 s.cpu.a f).1.toNat = 0) :=
    decide_eq_decide.2 BitVec.toNat_inj.symm
  refine ⟨⟨(daa8 s.cpu.a f).1, (daaAdjust s.cpu.a f).2, fun h => ?_, fun h => ?_, rfl, rfl, ?_⟩, ⟨rfl, rfl, ?_⟩,
    ⟨rfl, rfl, rfl⟩, ⟨rfl, rfl, rfl⟩⟩
  · obtain ⟨hsum, hc⟩ := daaAdjust_of_add h s.cpu.a
    rw [hsum] at hv
    exact ⟨Int.ofNat.inj hv, hc⟩
  · obtain ⟨hdiff, hc⟩ := daaAdjust_of_sub h s.cpu.a
    exact ⟨hdiff ▸ hv, hc⟩
  · rw [← hz]
    rfl
  · rw [show (0xFF : Byte) = BitVec.allOnes 8 from rfl, BitVec.xor_allOnes]
    rfl

end Sys2Proof.Machine
end

section
/-! The 16-bit arithmetic (43_alu16.md rules R230 to R233): the sum of `HL` and a pair as numbers, the step of a pair by 1 as a
number, and the offset from the stack pointer that `LD HL,SP+e8` also uses. -/

namespace Sys2Proof.Machine

/-- The half carry is out of bit 11, not out of bit 3 as for bytes (R230). -/
theorem add16_as_numbers (a b : Word) (f : Flags) :
    (add16 a b f).1.toNat = (a.toNat + b.toNat) % 65536 ∧ (add16 a b f).2.z = f.z ∧ (add16 a b f).2.n = false ∧
    ((add16 a b f).2.h = true ↔ a.toNat % 4096 + b.toNat % 4096 > 0xFFF) ∧
    ((add16 a b f).2.c = true ↔ a.toNat + b.toNat > 0xFFFF) :=
  ⟨BitVec.toNat_add a b, rfl, rfl, decide_eq_true_iff, decide_eq_true_iff⟩

theorem word_add_one (w : Word) : w + 1 = BitVec.ofNat 16 (w.toNat + 1) :=
  BitVec.eq_of_toNat_eq (BitVec.toNat_add w 1)

theorem word_sub_one (w : Word) : w - 1 = BitVec.ofNat 16 (w.toNat + 65535) := by
  rw [Nat.add_comm]
  exact BitVec.eq_of_toNat_eq (BitVec.toNat_sub w 1)

/-- Settles O15: the bytes and the meaning are checked pair by pair, the numbers are those of `add16`, of a step by 1 and of
`addSpOffset`. -/
theorem wordArithmetic : Obligations.WordArithmetic := by
  intro s p e
  obtain ⟨hsum, hz, hn, hh, hc⟩ := add16_as_numbers s.hl (s.pair p) s.cpu.f
  rw [← word_add_one, ← word_sub_one]
  refine ⟨⟨_, _, hsum, hz, hn, hh, hc, ?_⟩, ?_, ?_, _, _, addSpOffset_isSpSum s.cpu.sp e, ⟨rfl, rfl, rfl⟩⟩
  all_goals cases p <;> exact ⟨rfl, rfl, rfl⟩

end Sys2Proof.Machine
end

section
/-! The rotates, shifts and bit operations (44_rotate_shift_bit.md rules R239 to R265): each function of the group as numbers, the
rows of the secondary table, the bit that `RES` and `SET` write, and what the meanings that read at `HL` do. -/

namespace Sys2Proof.Machine

variable {s : State}

/-! ## The functions of the group as numbers (R239) -/

theorem toNat_append_eq {m n : Nat} (x : BitVec m) (y : BitVec n) : (x ++ y).toNat = x.toNat * 2 ^ n + y.toNat := by
  rw [BitVec.toNat_append, ← Nat.shiftLeft_add_eq_or_of_lt y.isLt, Nat.shiftLeft_eq]

theorem toNat_field {w : Nat} (v : BitVec w) (lo n : Nat) : (v.extractLsb' lo n).toNat = v.toNat / 2 ^ lo % 2 ^ n := by
  rw [BitVec.extractLsb'_toNat, Nat.shiftRight_eq_div_pow]

theorem toNat_ofBool_eq (c : Bool) : (BitVec.ofBool c).toNat = if c then 1 else 0 := by cases c <;> rfl

/-- The model's function of each operation: the result and the carry-out for a byte and a carry-in. -/
def ShiftOp.apply (o : ShiftOp) (v : Byte) (c : Bool) : Byte × Bool :=
  match o with
  | .rlc => rlc8 v
  | .rrc => rrc8 v
  | .rl => rl8 v c
  | .rr => rr8 v c
  | .sla => sla8 v
  | .sra => sra8 v
  | .swap => swap8 v
  | .srl => srl8 v

/-- Every result is two fields of the byte, or one of them and a bit, side by side. -/
theorem ShiftOp.toNat_apply (o : ShiftOp) (v : Byte) (c : Bool) :
    (o.apply v c).1.toNat = o.result v.toNat (if c then 1 else 0) := by
  have hv := v.isLt
  have h0 : (0 : BitVec 1).toNat = 0 := rfl
  cases o
  all_goals
    simp only [apply, result, rlc8, rrc8, rl8, rr8, sla8, sra8, swap8, srl8, toNat_append_eq, toNat_field, toNat_ofBool_eq, h0]
    omega

theorem ShiftOp.apply_carry (o : ShiftOp) (v : Byte) (c : Bool) : (o.apply v c).2 = o.carry v.toNat := by
  have hv := v.isLt
  have hlow : v.getLsbD 0 = decide (v.toNat % 2 = 1) := Nat.testBit_zero _
  have hhigh : v.getLsbD 7 = decide (v.toNat / 128 = 1) := (bit_seven v).trans (decide_eq_decide.2 (by omega))
  cases o
  case rlc | rl | sla => exact hhigh
  case rrc | rr | sra | srl => exact hlow
  case swap => rfl

theorem ShiftOp.apply_isShift (o : ShiftOp) (x : Byte) (c : Bool) :
    IsShift o x c (o.apply x c).1 (shiftFlags (o.apply x c)) :=
  ⟨o.toNat_apply x c, decide_eq_zero_iff _, rfl, rfl, o.apply_carry x c⟩

/-! ## The rows of the secondary table (30_encoding.md rules R122, R126, R127) -/

theorem fields_bits233 : ∀ (x : BitVec 2) (y z : BitVec 3),
    fieldX (bits233 x y z) = x.toNat ∧ fieldY (bits233 x y z) = y.toNat ∧ fieldZ (bits233 x y z) = z.toNat := by decide

theorem encode_decodeSecondary : ∀ (x : BitVec 2) (y z : BitVec 3),
    encode (decodeSecondary (bits233 x y z)) = [0xCB, bits233 x y z] := by decide

theorem decodeSecondary_shift (o : ShiftOp) (z : BitVec 3) :
    decodeSecondary (bits233 0 o.bits z) = orHl (reg8Of z.toNat) o.onReg o.onHl := by
  obtain ⟨hx, hy, hz⟩ := fields_bits233 0 o.bits z
  rw [decodeSecondary, hx, hy, hz]
  cases o <;> rfl

/-- The rows of the bit operations, which `xx` selects between. -/
theorem decodeSecondary_bit (b : BitVec 3) :
    (∀ z, decodeSecondary (bits233 1 b z) = orHl (reg8Of z.toNat) (.bitBR b) (.bitBHl b)) ∧
    (∀ z, decodeSecondary (bits233 2 b z) = orHl (reg8Of z.toNat) (.resBR b) (.resBHl b)) ∧
    (∀ z, decodeSecondary (bits233 3 b z) = orHl (reg8Of z.toNat) (.setBR b) (.setBHl b)) := by
  refine ⟨fun z => ?_, fun z => ?_, fun z => ?_⟩
  all_goals
    obtain ⟨hx, hy, hz⟩ := fields_bits233 _ b z
    rw [decodeSecondary, hx, hy, hz, BitVec.ofNat_toNat, BitVec.setWidth_eq]
    rfl

/-- The instruction at a place of the secondary table is the prefix and that place's byte. -/
theorem runs_secondary {x : BitVec 2} {y z : BitVec 3} {i : Instr} {n : Nat} {t : State}
    (hrow : decodeSecondary (bits233 x y z) = i) (hexec : exec i s = finish n t) :
    Runs i [0xCB, bits233 x y z] s n t := by
  subst hrow
  exact ⟨encode_decodeSecondary x y z, rfl, hexec⟩

/-- The register form in a row of the secondary table. -/
theorem runs_secondary_reg {x : BitVec 2} {y : BitVec 3} {onReg : Reg8 → Instr} {onHl : Instr} {r : Reg8} {n : Nat} {t : State}
    (hrow : ∀ z : BitVec 3, decodeSecondary (bits233 x y z) = orHl (reg8Of z.toNat) onReg onHl)
    (hexec : exec (onReg r) s = finish n t) : Runs (onReg r) [0xCB, bits233 x y r.bits] s n t :=
  runs_secondary (by rw [hrow, reg8Of_bits, orHl]) hexec

/-- The `(HL)` form in a row of the secondary table. -/
theorem runs_secondary_hl {x : BitVec 2} {y : BitVec 3} {onReg : Reg8 → Instr} {onHl : Instr} {n : Nat} {t : State}
    (hrow : ∀ z : BitVec 3, decodeSecondary (bits233 x y z) = orHl (reg8Of z.toNat) onReg onHl)
    (hexec : exec onHl s = finish n t) : Runs onHl [0xCB, bits233 x y 6] s n t :=
  runs_secondary (hrow 6) hexec

/-! ## The shifts and rotates -/

theorem exec_shift_onReg (o : ShiftOp) (r : Reg8) (s : State) :
    exec (o.onReg r) s = finish 8 (modifyReg (fun v => withShiftFlags (o.apply v s.cpu.f.c)) r s) := by cases o <;> rfl

theorem exec_shift_onHl (o : ShiftOp) (s : State) :
    exec o.onHl s = finish 16 (modifyHl (fun v => withShiftFlags (o.apply v s.cpu.f.c)) s) := by cases o <;> rfl

/-- An accumulator rotate has the result and the carry-out of its operation, and clears `Z`. -/
theorem rotateA_eq (o : ShiftOp) (s : State) : rotateA (fun v => o.apply v s.cpu.f.c) s =
    s.withAF (o.apply s.cpu.a s.cpu.f.c).1 ⟨false, false, false, o.carry s.cpu.a.toNat⟩ := by
  rw [← o.apply_carry s.cpu.a s.cpu.f.c]
  rfl

/-- Settles O16: a register takes the result of its operation's function with the flags of a prefixed shift, `A` with those of an
accumulator rotate. -/
theorem registerShifts : Obligations.RegisterShifts := by
  refine ⟨fun o s r => ⟨_, _, o.apply_isShift (s.reg r) s.cpu.f.c,
    runs_secondary_reg (decodeSecondary_shift o) (exec_shift_onReg o r s)⟩, fun s => ?_⟩
  have hv := fun o : ShiftOp => o.toNat_apply s.cpu.a s.cpu.f.c
  have ht := fun o : ShiftOp => congrArg (finish 4) (rotateA_eq o s)
  exact ⟨⟨_, hv .rlc, rfl, rfl, ht .rlc⟩, ⟨_, hv .rrc, rfl, rfl, ht .rrc⟩, ⟨_, hv .rl, rfl, rfl, ht .rl⟩,
    ⟨_, hv .rr, rfl, rfl, ht .rr⟩⟩

/-- Settles O17: the byte at `HL` is read, and the result of its operation's function is written there. -/
theorem memoryShifts : Obligations.MemoryShifts := fun o s =>
  ⟨_, _, o.apply_isShift (cpuPeek s s.hl) s.cpu.f.c,
    runs_secondary_hl (decodeSecondary_shift o) ((exec_shift_onHl o s).trans (congrArg (finish 16) (modifyHl_eq _ s)))⟩

/-! ## Bits -/

theorem getLsbD_oneBit (b : BitVec 3) (k : Nat) : ((1 : Byte) <<< b.toNat).getLsbD k = decide (k = b.toNat) := by
  have hb := b.isLt
  rw [show (1 : Byte) <<< b.toNat = BitVec.twoPow 8 b.toNat from (BitVec.twoPow_eq 8 _).symm, BitVec.getLsbD_twoPow,
    decide_eq_true hb, Bool.true_and, decide_eq_decide, eq_comm]

theorem getLsbD_resBit (v : Byte) (b : BitVec 3) :
    ∀ k < 8, (resBit v b).getLsbD k = if k = b.toNat then false else v.getLsbD k := by
  intro k hk
  rw [resBit, BitVec.getLsbD_and, BitVec.getLsbD_not, getLsbD_oneBit, decide_eq_true hk, Bool.true_and]
  split_ifs with h <;> simp [h]

theorem getLsbD_setBit (v : Byte) (b : BitVec 3) :
    ∀ k < 8, (setBit v b).getLsbD k = if k = b.toNat then true else v.getLsbD k := by
  intro k hk
  rw [setBit, BitVec.getLsbD_or, getLsbD_oneBit]
  split_ifs with h <;> simp [h]

/-- `BIT` tests the byte read at `HL` and writes none. -/
theorem exec_bitBHl (b : BitVec 3) (s : State) :
    exec (.bitBHl b) s = finish 12 ((cpuObserve s s.hl).withF (bitFlags (cpuPeek s s.hl) b s.cpu.f)) := by
  rw [← cpuObserve_cpu s s.hl]
  rfl

theorem exec_resBHl (b : BitVec 3) (s : State) :
    exec (.resBHl b) s = finish 16 (cpuWrite s.hl (resBit (cpuPeek s s.hl) b) (cpuObserve s s.hl)) :=
  congrArg (fun a => finish 16 (cpuWrite a _ _)) (cpuObserve_hl s s.hl)

theorem exec_setBHl (b : BitVec 3) (s : State) :
    exec (.setBHl b) s = finish 16 (cpuWrite s.hl (setBit (cpuPeek s s.hl) b) (cpuObserve s s.hl)) :=
  congrArg (fun a => finish 16 (cpuWrite a _ _)) (cpuObserve_hl s s.hl)

/-- Settles O18: `BIT` sets `bitFlags`, `RES` and `SET` write the byte of `resBit` or `setBit`. -/
theorem bitOperations : Obligations.BitOperations := by
  intro s b r
  obtain ⟨hbit, hres, hset⟩ := decodeSecondary_bit b
  exact ⟨runs_secondary_reg hbit rfl, runs_secondary_hl hbit (exec_bitBHl b s),
    ⟨_, getLsbD_resBit _ b, runs_secondary_reg hres rfl⟩,
    ⟨_, getLsbD_resBit _ b, runs_secondary_hl hres (exec_resBHl b s)⟩,
    ⟨_, getLsbD_setBit _ b, runs_secondary_reg hset rfl⟩,
    ⟨_, getLsbD_setBit _ b, runs_secondary_hl hset (exec_setBHl b s)⟩⟩

end Sys2Proof.Machine
end

section
/-! The control transfers (45_control.md rules R270 to R280): the conditions, the two outcomes of a conditional form, and the bytes
of each row that a condition or a restart number selects in. -/

namespace Sys2Proof.Machine

/-! ## The conditions (00_scope.md rule R11) -/

theorem condHolds_iff (f : Flags) :
    (condHolds .nz f = true ↔ f.z = false) ∧ (condHolds .z f = true ↔ f.z = true) ∧
    (condHolds .nc f = true ↔ f.c = false) ∧ (condHolds .c f = true ↔ f.c = true) :=
  ⟨Iff.of_eq (Bool.not_eq_true' f.z), Iff.rfl, Iff.of_eq (Bool.not_eq_true' f.c), Iff.rfl⟩

/-- A meaning that is guarded by a condition runs as its two branches; the one not taken leaves the state alone. -/
theorem runs_conditional {i : Instr} {bs : List Byte} {cc : Cond} {s t : State} {taken notTaken : Nat}
    (hbytes : encode i = bs ∧ decode bs = .ok (i, []))
    (hexec : exec i s = if condHolds cc s.cpu.f then finish taken t else finish notTaken s) :
    (condHolds cc s.cpu.f = true → Runs i bs s taken t) ∧ (condHolds cc s.cpu.f = false → Runs i bs s notTaken s) := by
  obtain ⟨henc, hdec⟩ := hbytes
  refine ⟨fun h => ⟨henc, hdec, ?_⟩, fun h => ⟨henc, hdec, ?_⟩⟩
  · rw [hexec, if_pos h, finish_eq]
  · rw [hexec, if_neg (Bool.eq_false_iff.1 h), finish_eq]

/-! ## The bytes (30_encoding.md rules R124, R125) -/

theorem encode_decode_jpCcN16 (cc : Cond) (n : Word) :
    encode (.jpCcN16 cc n) = bits323 6 cc.bits 2 :: immediate16 n ∧
    decode (bits323 6 cc.bits 2 :: immediate16 n) = .ok (.jpCcN16 cc n, []) := by
  cases cc <;> exact ⟨rfl, decode_immediate16 rfl (fun _ _ => rfl) n⟩

theorem encode_decode_jrCcE8 (cc : Cond) (e : Byte) :
    encode (.jrCcE8 cc e) = [bits323 1 cc.bits 0, e] ∧
    decode [bits323 1 cc.bits 0, e] = .ok (.jrCcE8 cc e, []) := by
  cases cc <;> exact ⟨rfl, rfl⟩

theorem encode_decode_callCcN16 (cc : Cond) (n : Word) :
    encode (.callCcN16 cc n) = bits323 6 cc.bits 4 :: immediate16 n ∧
    decode (bits323 6 cc.bits 4 :: immediate16 n) = .ok (.callCcN16 cc n, []) := by
  cases cc <;> exact ⟨rfl, decode_immediate16 rfl (fun _ _ => rfl) n⟩

theorem encode_decode_retCc (cc : Cond) :
    encode (.retCc cc) = [bits323 6 cc.bits 0] ∧ decode [bits323 6 cc.bits 0] = .ok (.retCc cc, []) := by
  cases cc <;> exact ⟨rfl, rfl⟩

theorem encode_decode_rstT : ∀ t : BitVec 3,
    encode (.rstT t) = [bits233 3 t 7] ∧ decode [bits233 3 t 7] = .ok (.rstT t, []) := by decide

/-! ## The statements -/

/-- Settles O19: a relative target is the sum of `offset16_eq`, and each conditional form has the two outcomes of
`runs_conditional`. -/
theorem jumps : Obligations.Jumps := by
  refine ⟨condHolds_iff, fun s cc n e => ?_⟩
  simp only [← offset16_eq]
  obtain ⟨hjp, hjpNot⟩ := runs_conditional (s := s) (encode_decode_jpCcN16 cc n) rfl
  obtain ⟨hjr, hjrNot⟩ := runs_conditional (s := s) (encode_decode_jrCcE8 cc e) rfl
  exact ⟨⟨rfl, decode_immediate16 rfl (fun _ _ => rfl) n, rfl⟩, hjp, hjpNot, ⟨rfl, rfl, rfl⟩, ⟨rfl, rfl, rfl⟩, hjr, hjrNot⟩

/-- Settles O20: a call and a restart are `callTo`, a return is `popPc`, which `RETI` follows by setting `IME`. -/
theorem callsAndReturns : Obligations.CallsAndReturns := by
  intro s cc n t
  simp only [← callTo_eq, ← popPc_eq]
  obtain ⟨hcall, hcallNot⟩ := runs_conditional (s := s) (encode_decode_callCcN16 cc n) rfl
  obtain ⟨hret, hretNot⟩ := runs_conditional (s := s) (encode_decode_retCc cc) rfl
  obtain ⟨hrstEnc, hrstDec⟩ := encode_decode_rstT t
  exact ⟨⟨rfl, decode_immediate16 rfl (fun _ _ => rfl) n, rfl⟩, hcall, hcallNot, ⟨rfl, rfl, rfl⟩, hret, hretNot,
    ⟨rfl, rfl, rfl⟩, ⟨hrstEnc, hrstDec, rfl⟩⟩

end Sys2Proof.Machine
end

section
/-! The extended opcode, and the instructions that set control state or do nothing (46_system.md rules R285 to R291). -/

namespace Sys2Proof.Machine

variable {s : State}

/-! ## The extended opcode -/

/-- The secondary table is behind 0xCB (30_encoding.md rules R121, R126). -/
theorem decode_extended (op2 : Byte) (rest : List Byte) :
    decode (0xCB :: op2 :: rest) = .ok (decodeSecondary op2, rest) := rfl

/-- Settles O22: the table entry `PREFIX` has the meaning of the secondary table's instruction (`exec_cbPrefix`), and every meaning
answers a next state. -/
theorem extendedOpcode : Obligations.ExtendedOpcode := by
  intro op2 rest s
  obtain ⟨t, ht, _⟩ := exec_completes (.cbPrefix op2) s
  exact ⟨decode_extended op2 rest, t, ht, (exec_cbPrefix op2 s).symm.trans ht⟩

/-! ## Control state -/

/-- `EI` starts the delay if none is running. -/
theorem exec_ei_idle (h : s.cpu.eiDelay = 0) : exec .ei s = finish 4 (s.setCpu { s.cpu with eiDelay := 2 }) := by
  change execEi s = _
  rw [execEi, if_pos h]

/-- `EI` leaves a running delay alone. -/
theorem exec_ei_running (h : s.cpu.eiDelay ≠ 0) : exec .ei s = finish 4 s := by
  change execEi s = _
  rw [execEi, if_neg h]
  rfl

/-- An instruction that answers `finish 4 s` changes nothing (R285, R291). -/
theorem runs_nothing {i : Instr} {bs : List Byte} (hbytes : encode i = bs ∧ decode bs = .ok (i, []))
    (hexec : exec i s = finish 4 s) : Runs i bs s 4 s := by
  obtain ⟨henc, hdec⟩ := hbytes
  exact ⟨henc, hdec, hexec⟩

/-- Settles O21: `EI` has its two cases, every other instruction one meaning in every state. -/
theorem systemInstructions : Obligations.SystemInstructions := by
  intro s
  refine ⟨runs_nothing ⟨rfl, rfl⟩ rfl, ⟨rfl, rfl, rfl⟩, ⟨rfl, rfl, rfl⟩, fun _ => rfl, ⟨rfl, rfl, rfl⟩,
    fun h => ⟨rfl, rfl, exec_ei_idle h⟩, fun h => runs_nothing ⟨rfl, rfl⟩ (exec_ei_running h),
    ?_, ?_, ?_, ?_, ?_, ?_, ?_, ?_, ?_, ?_, ?_⟩
  all_goals exact runs_nothing ⟨rfl, rfl⟩ rfl

end Sys2Proof.Machine
end

section
/-! The interrupt controller and the halt state (60_exceptions.md rules R303, R304, R312). -/

namespace Sys2Proof.Machine

/-! ## The interrupt controller -/

theorem Irq.index_lt (q : Irq) : q.index < 5 := by cases q <;> decide

/-- The source chosen is the least one pending (R304), source by source over the 32 pending sets. -/
theorem lowestIrq_some (p : BitVec 5) (q : Irq) :
    lowestIrq p = some q ↔ p.getLsbD q.index = true ∧ ∀ j < q.index, p.getLsbD j = false := by
  revert p
  cases q <;> decide

/-- A source is pending when it is requested and enabled (R303). -/
theorem getLsbD_pending (s : State) {j : Nat} (h : j < 5) :
    (pending s).getLsbD j = (s.iflag.getLsbD j && s.ie.getLsbD j) := by
  simp [pending, h]

theorem consult_none (s : State) : consult s = none ↔ s.cpu.ime = false ∨ pending s = 0 := by
  unfold consult
  cases s.cpu.ime
  · simp
  · simp [lowestIrq_none]

theorem lowestIrq_of_consult {s : State} {q : Irq} (h : consult s = some q) : lowestIrq (pending s) = some q := by
  unfold consult at h
  split at h
  · exact h
  · cases h

/-- Settles O30: the choice by its characterisation, the pending set bit by bit. -/
theorem interruptPriority : Obligations.InterruptPriority := by
  refine ⟨fun p => ⟨lowestIrq_none p, lowestIrq_some p⟩, fun s => ⟨consult_none s, fun q hq => ?_⟩, rfl, rfl, rfl, rfl, rfl⟩
  obtain ⟨hset, hbelow⟩ := (lowestIrq_some _ q).1 (lowestIrq_of_consult hq)
  rw [getLsbD_pending s q.index_lt, Bool.and_eq_true] at hset
  refine ⟨hset.1, hset.2, fun j hj => ?_⟩
  have hj' := hbelow j hj
  rw [getLsbD_pending s (hj.trans q.index_lt)] at hj'
  rw [← Bool.and_eq_true, hj']
  decide

/-! ## The halt state -/

theorem haltTick_asleep {s : State} (h : pending s = 0) : haltTick s = s := if_neg (not_not_intro h)

theorem haltTick_woken {s : State} (h : pending s ≠ 0) : haltTick s = s.setCpu { s.cpu with
    halted := false, nextInt := if s.cpu.ime then lowestIrq (pending s) else none } := if_pos h

/-- A halted engine that nothing suspends makes a tick of the halt state. -/
theorem engineStep_halted {s : State} (h : NotStalled s) (hcur : s.cpu.cur = none) (hhalt : s.cpu.halted = true) :
    engineStep s = .next (haltTick s) := by
  rw [engineStep_unstalled h, hcur, hhalt]
  rfl

/-- Settles O31: the step is a tick whose engine step is the halt state's. -/
theorem haltWakeUp : Obligations.HaltWakeUp := by
  intro s hrun u pend hstall hcur hhalt
  have hstep := step_running hrun (engineStep_halted hstall hcur hhalt)
  refine ⟨fun h => ?_, fun h => ?_⟩
  · rw [hstep, haltTick_asleep h]
  · rw [hstep, haltTick_woken h]
    rfl

end Sys2Proof.Machine
end

section
/-! One tick of the timer (60_exceptions.md rules R325, R327, R328): what the reload, the increment and the edge each leave, and
the tick as the three in turn. -/

namespace Sys2Proof.Machine

variable (s : State)

/-- The counter bit the control selects (R327). -/
theorem timerSelect_eq (tac : Byte) : timerSelect tac =
    if tac.toNat % 4 = 0 then 9 else if tac.toNat % 4 = 1 then 3 else if tac.toNat % 4 = 2 then 5 else 7 := by
  unfold timerSelect
  generalize tac.toNat % 4 = n
  rcases n with _ | _ | _ | n <;> rfl

/-! ## The reload (R328) -/

theorem timerReload_timer : (timerReload s).timer = { s.timer with reloadPending := false } := by
  unfold timerReload
  split
  · rfl
  · next h => rw [← Bool.eq_false_iff.2 h]

theorem timerReload_iflag :
    (timerReload s).iflag = if s.timer.reloadPending then s.iflag ||| Irq.timer.mask else s.iflag := by
  unfold timerReload
  split <;> rfl

theorem timerReload_tima : (timerReload s).io .tima = if s.timer.reloadPending then s.io .tma else s.io .tima := by
  unfold timerReload
  split
  · exact State.io_setIo_self s .tima _
  · rfl

theorem timerReload_cell {k : Nat} (h : k ≠ ioKey .tima) : (timerReload s).cell k = s.cell k := by
  unfold timerReload
  split
  · exact State.cell_setCell_ne s _ h
  · rfl

/-! ## The increment and the edge (R327, R328) -/

/-- From 0xFF the count wraps to 0, so that the overflow differs in the reload it makes due alone. -/
theorem timerIncrement_eq : timerIncrement s = { s.setIo .tima (s.io .tima + 1) with
    timer := { s.timer with reloadPending := s.timer.reloadPending || decide (s.io .tima = 0xFF) } } := by
  unfold timerIncrement
  split
  · next h => rw [h, decide_eq_true rfl, Bool.or_true]; rfl
  · next h => rw [decide_eq_false h, Bool.or_false]; rfl

/-- The input fell since the previous tick. -/
def timerFalls : Bool := s.timer.tinPrev && !timerInput s

theorem timerEdge_timer : (timerEdge s).timer = { s.timer with
    tinPrev := timerInput s
    reloadPending := s.timer.reloadPending || (timerFalls s && decide (s.io .tima = 0xFF)) } := by
  unfold timerEdge
  change ({ (if timerFalls s then timerIncrement s else s).timer with tinPrev := timerInput s } : Timer) = _
  cases timerFalls s
  · simp
  · simp [timerIncrement_eq]

theorem timerEdge_mem : (timerEdge s).mem = if timerFalls s then s.mem.set (ioKey .tima) (s.io .tima + 1) else s.mem := by
  unfold timerEdge
  change (if timerFalls s then timerIncrement s else s).mem = _
  rw [timerIncrement_eq]
  split <;> rfl

theorem timerEdge_iflag : (timerEdge s).iflag = s.iflag := by rw [timerEdge_parts]

theorem timerEdge_tima : (timerEdge s).io .tima = if timerFalls s then s.io .tima + 1 else s.io .tima := by
  unfold State.io State.cell
  rw [timerEdge_mem]
  split
  · exact Memory.get_set_self _ _ _
  · rfl

theorem timerEdge_cell {k : Nat} (h : k ≠ ioKey .tima) : (timerEdge s).cell k = s.cell k := by
  unfold State.cell
  rw [timerEdge_mem]
  split
  · exact Memory.get_set_ne _ _ h
  · rfl

/-! ## The tick -/

/-- The input of a tick: the enable bit and the selected bit of the counter, which has gone up (R325, R327). -/
theorem timerInput_counted : timerInput (divStep (timerReload s)) =
    ((s.io .tac).getLsbD 2 && (s.timer.div16 + 1).getLsbD (timerSelect (s.io .tac))) := by
  have htac : (divStep (timerReload s)).io .tac = s.io .tac := timerReload_cell s (by decide)
  have hdiv : (divStep (timerReload s)).timer.div16 = s.timer.div16 + 1 := by
    change (timerReload s).timer.div16 + 1 = _
    rw [timerReload_timer]
  rw [timerInput, htac, hdiv]
  rfl

/-- Settles O46: the edge after the count after the reload. -/
theorem timerTick : Obligations.TimerTick := by
  intro s t tac tima div' sel tin falls
  let u := divStep (timerReload s)
  have htimer : u.timer = { s.timer with reloadPending := false, div16 := div' } := by
    change ({ (timerReload s).timer with div16 := (timerReload s).timer.div16 + 1 } : Timer) = _
    rw [timerReload_timer]
  have htima : u.io .tima = tima := timerReload_tima s
  have hin : timerInput u = tin := by rw [timerInput_counted, timerSelect_eq]
  have hfalls : timerFalls u = falls := by rw [timerFalls, hin, htimer]
  have ht : t.timer = { div16 := div', tinPrev := tin, reloadPending := falls && decide (tima = 0xFF) } := by
    rw [show t = timerEdge u from rfl, timerEdge_timer, htimer, htima, hin, hfalls, Bool.false_or]
  refine ⟨timerStep_parts s, by rw [ht], by rw [ht], by rw [ht], ?_, fun k hk => ?_, ?_⟩
  · exact (timerEdge_tima u).trans (by rw [hfalls, htima])
  · exact (timerEdge_cell u hk).trans (timerReload_cell s hk)
  · exact (timerEdge_iflag u).trans (timerReload_iflag s)

end Sys2Proof.Machine
end

section
/-! The interrupt requests of a video step and the display off (60_exceptions.md rules R340 to R342, R346): each action's requests
bit by bit, then the action at each position. -/

namespace Sys2Proof.Machine

variable (s : State)

/-! ## Requests and the register STAT -/

theorem Irq.mask_eq_twoPow (q : Irq) : q.mask = BitVec.twoPow 5 q.index := by cases q <;> rfl

/-- A request sets its own bit and leaves the others (R302). -/
theorem getLsbD_requestIf (b : Bool) (q : Irq) (i : Nat) :
    (s.requestIf b q).iflag.getLsbD i = (s.iflag.getLsbD i || (decide (i = q.index) && b)) := by
  have hlt := q.index_lt
  cases b
  · simp
  · simp only [State.requestIf_iflag, if_true, Irq.mask_eq_twoPow, BitVec.getLsbD_or, BitVec.getLsbD_twoPow, hlt, decide_true,
      Bool.true_and, Bool.and_true, eq_comm]

/-- The mode is in the low two bits of `STAT` (R335). -/
theorem getLsbD_setMode_stat (m : BitVec 2) {i : Nat} (h : 2 ≤ i) :
    ((setMode m s).io .stat).getLsbD i = (s.io .stat).getLsbD i := by
  rw [setMode, State.io_setIo_self, BitVec.getLsbD_append, if_neg (by omega), BitVec.getLsbD_extractLsb']
  have := (s.io .stat).getLsbD_of_ge i
  grind

theorem io_setMode {r : IoReg} (h : r ≠ .stat) (m : BitVec 2) : (setMode m s).io r = s.io r := State.io_setIo_ne s _ h

theorem io_requestIf (b : Bool) (q : Irq) (r : IoReg) : (s.requestIf b q).io r = s.io r := by
  rw [State.io, State.cell, State.requestIf_mem]
  rfl

/-- The line compare changes the match flag alone of `STAT` (R341). -/
theorem getLsbD_lineCompare_stat {i : Nat} (h : 3 ≤ i) : ((lineCompare s).io .stat).getLsbD i = (s.io .stat).getLsbD i := by
  rw [lineCompare, io_requestIf, State.io_setIo_self, BitVec.getLsbD_append, if_neg (by omega), BitVec.getLsbD_append,
    if_neg (by omega), BitVec.getLsbD_extractLsb']
  have := (s.io .stat).getLsbD_of_ge i
  grind

/-- A block of a transfer is stored in video RAM, never in the register block. -/
theorem io_hdmaCopy (src dst : Word) (n k : Nat) (r : IoReg) : (hdmaCopy src dst n k s).io r = s.io r := by
  induction n generalizing k s with
  | zero => rfl
  | succ n ih =>
    obtain ⟨hlo, hhi⟩ := ioKey_range r
    have hne : ∀ bank d, ioKey r ≠ vramKey bank (0x8000 + d % 0x2000) := fun bank d h => by
      unfold vramKey at h
      omega
    rw [hdmaCopy, ih, State.io, State.cell_setCell_ne _ _ (hne _ _), observe_parts]
    rfl

theorem io_hblankDma (r : IoReg) : (hblankDma s).io r = s.io r := by
  unfold hblankDma
  split
  · exact io_hdmaCopy s _ _ _ _ r
  · rfl

/-! ## The requests of each action -/

/-- The line compare of a line (R341). -/
def lineMatches : Bool := decide ((s.io .lyc).toNat = s.video.ly)

theorem lineCompare_iflag (i : Nat) : (lineCompare s).iflag.getLsbD i =
    (s.iflag.getLsbD i || (decide (i = 1) && (lineMatches s && (s.io .stat).getLsbD 6))) :=
  getLsbD_requestIf _ _ .stat i

theorem visibleLineStart_iflag (i : Nat) : (visibleLineStart s).iflag.getLsbD i = (s.iflag.getLsbD i ||
    (decide (i = 1) && (lineMatches s && (s.io .stat).getLsbD 6 || (s.io .stat).getLsbD 5))) := by
  let u : State := { s with video := { newFrame s.video with winDrawn := false } }
  have hline : lineMatches u = lineMatches s := by
    change decide (_ = (newFrame s.video).ly) = _
    rw [newFrame_parts]
    rfl
  refine (getLsbD_requestIf _ _ .stat i).trans ?_
  change ((lineCompare u).iflag.getLsbD i || (decide (i = 1) && ((lineCompare u).io .stat).getLsbD 5)) = _
  rw [lineCompare_iflag, hline, getLsbD_lineCompare_stat u (by decide), Bool.and_or_distrib_left, ← Bool.or_assoc]
  rfl

/-- The start of a line of the vertical blank, its two requests of line 144 as conditions. -/
theorem vblankLineStart_eq : vblankLineStart s = lineCompare
    (((setMode 1 s).requestIf (decide (s.video.ly = 144)) .vblank).requestIf
      (decide (s.video.ly = 144) && ((setMode 1 s).io .stat).getLsbD 4) .stat) := by
  unfold vblankLineStart
  by_cases h : s.video.ly = 144
  · simp only [h, decide_true, Bool.true_and]
    exact congrArg lineCompare (if_pos h)
  · simp only [h, decide_false, Bool.false_and]
    exact congrArg lineCompare (if_neg h)

theorem vblankLineStart_iflag (i : Nat) : (vblankLineStart s).iflag.getLsbD i =
    (s.iflag.getLsbD i || (decide (i = 0) && decide (s.video.ly = 144)) ||
    (decide (i = 1) && (decide (s.video.ly = 144) && (s.io .stat).getLsbD 4 || lineMatches s && (s.io .stat).getLsbD 6))) := by
  rw [vblankLineStart_eq, lineCompare_iflag, getLsbD_requestIf, getLsbD_requestIf, io_requestIf, io_requestIf,
    getLsbD_setMode_stat s 1 (by decide), getLsbD_setMode_stat s 1 (by decide), Bool.and_or_distrib_left, ← Bool.or_assoc]
  unfold lineMatches
  rw [io_requestIf, io_requestIf, io_setMode s (by decide)]
  simp only [State.requestIf_video]
  rfl

theorem hblank_iflag (i : Nat) : (hblank s).iflag.getLsbD i =
    (s.iflag.getLsbD i || (decide (i = 1) && (s.io .stat).getLsbD 3)) := by
  have hstat : ((hblankDma (setMode 0 s)).io .stat).getLsbD 3 = (s.io .stat).getLsbD 3 := by
    rw [io_hblankDma, getLsbD_setMode_stat s 0 (by decide)]
  have hflags : (hblankDma (setMode 0 s)).iflag = s.iflag := by
    rw [hblankDma_parts]
    rfl
  refine (getLsbD_requestIf (hblankDma (setMode 0 s)) _ .stat i).trans ?_
  rw [hflags, bit, hstat]
  rfl

/-! ## The requests of a step -/

/-- The position and the conditions of a STAT request (R341, R342). -/
def StatRequested : Prop :=
  (s.video.dot = 0 ∧ (s.io .lyc).toNat = s.video.ly ∧ (s.io .stat).getLsbD 6 = true) ∨
  (s.video.dot = 0 ∧ s.video.ly < 144 ∧ (s.io .stat).getLsbD 5 = true) ∨
  (s.video.dot = 0 ∧ s.video.ly = 144 ∧ (s.io .stat).getLsbD 4 = true) ∨
  (s.video.dot = s.cfg.hblankDot ∧ s.video.ly < 144 ∧ (s.io .stat).getLsbD 3 = true)

/-- What the action at a position requests. The HBlank dot is neither dot 0 nor dot 80, so the events of a line exclude each other
by their dots, and the transfer and the pixels request nothing. -/
theorem videoAct_iflag (hok : s.cfg.Ok) (i : Nat) : (videoAct s).iflag.getLsbD i = true ↔
    s.iflag.getLsbD i = true ∨ (i = 0 ∧ s.video.ly = 144 ∧ s.video.dot = 0) ∨ (i = 1 ∧ StatRequested s) := by
  obtain ⟨hstart, hend, -, -⟩ := hok
  unfold videoAct StatRequested
  split_ifs with hline hdot htransfer hblankAt hpixel hdot
  · rw [visibleLineStart_iflag, lineMatches]
    grind
  · change s.iflag.getLsbD i = true ↔ _
    grind
  · rw [hblank_iflag]
    grind
  · change s.iflag.getLsbD i = true ↔ _
    grind
  · grind
  · rw [vblankLineStart_iflag, lineMatches]
    grind
  · grind

theorem videoAdvance_iflag : (videoAdvance s).iflag = s.iflag := by
  unfold videoAdvance
  split <;> rfl

theorem videoStep_on (h : lcdOn s = true) : videoStep s = videoAdvance (videoAct s) := if_pos h

theorem videoStep_off (h : lcdOn s = false) : videoStep s = videoOff s := if_neg (by simp [h])

theorem statMode_setMode (m : BitVec 2) : statMode (setMode m s) = m.toNat := by
  rw [statMode, setMode, State.io_setIo_self, toNat_append_eq, Nat.mul_comm]
  exact (Nat.mul_add_mod _ _ _).trans (Nat.mod_eq_of_lt m.isLt)

/-- Settles O48: with the display on the requests are those of the action at the position, with it off the step is `videoOff`. -/
theorem videoRequests : Obligations.VideoRequests := by
  intro s hok t st
  refine ⟨fun hon => ?_, fun hoff => ?_⟩
  · have ht : t.iflag = (videoAct s).iflag := by rw [show t = _ from videoStep_on s hon, videoAdvance_iflag]
    rw [ht]
    refine ⟨fun i hi => ?_, ?_, ?_⟩
    · rw [Bool.eq_iff_iff, videoAct_iflag s hok]
      exact or_iff_left (by omega)
    · rw [videoAct_iflag s hok]
      simp
    · rw [videoAct_iflag s hok]
      simp [StatRequested, st]
  · have ht : t = videoOff s := videoStep_off s hoff
    rw [ht]
    exact ⟨rfl, rfl, rfl, rfl, statMode_setMode s 0, fun _ _ _ _ => rfl⟩

end Sys2Proof.Machine
end

section
/-! The decoder and the encoder are each other's inverse (30_encoding.md rules R120 to R130). -/

namespace Sys2Proof.Machine

/-! ## From an instruction to its bytes and back -/

/-- A three-byte instruction with a 16-bit immediate is read back, whatever follows it (R121, R123). -/
theorem decode_withN16 {op : Byte} {mk : Word → Instr} (hlen : instrLength op = 3)
    (hop : ∀ lo hi, decodeOp op lo hi = mk (join16 hi lo)) (w : Word) (rest : List Byte) :
    decode (withN16 op w ++ rest) = .ok (mk w, rest) :=
  (decode_three_bytes hlen (loByte w) (hiByte w) rest).trans (by rw [hop, join16_bytes])

/-- A prefixed instruction is read from the secondary table (R126). -/
theorem decode_withCb {op2 : Byte} {i : Instr} (h : decodeSecondary op2 = i) (rest : List Byte) :
    decode (withCb op2 ++ rest) = .ok (i, rest) := h ▸ decode_extended op2 rest

/-- The rows of the bit operations, in the encoder's fields (R127). -/
theorem decodeSecondary_bit_encoded (b : BitVec 3) (r : Reg8) :
    decodeSecondary (xyz 1 b.toNat r.code) = .bitBR b r ∧ decodeSecondary (xyz 1 b.toNat 6) = .bitBHl b ∧
    decodeSecondary (xyz 2 b.toNat r.code) = .resBR b r ∧ decodeSecondary (xyz 2 b.toNat 6) = .resBHl b ∧
    decodeSecondary (xyz 3 b.toNat r.code) = .setBR b r ∧ decodeSecondary (xyz 3 b.toNat 6) = .setBHl b := by
  revert b
  cases r <;> decide

/-- Settles O2: the fields of each row's operands are read back, operand by operand. -/
theorem encodeThenDecode : Obligations.EncodeThenDecode := by
  intro i rest hwf hin
  cases i
  -- the interrupt table and `PREFIX` do not stand in the stream
  case cbPrefix | intVblank | intStat | intTimer | intSerial | intJoypad => cases hin
  -- a register, a pair or a condition in the first byte
  case ldRR rd rs => cases rd <;> cases rs <;> rfl
  case ldRN8 r _ | ldRHl r | ldHlR r | incR r | decR r => cases r <;> rfl
  case addAR r | adcAR r | subAR r | sbcAR r | andAR r | xorAR r | orAR r | cpAR r => cases r <;> rfl
  case addHlRr p | incRr p | decRr p => cases p <;> rfl
  case pushRs q => cases q <;> rfl
  case popRs q =>
    cases q
    case af => cases hwf
    all_goals rfl
  case jrCcE8 cc _ | retCc cc => cases cc <;> rfl
  case rstT t => rcases Laws.Length.bits3 t with rfl | rfl | rfl | rfl | rfl | rfl | rfl | rfl <;> rfl
  -- a 16-bit immediate
  case ldAN16 n | ldN16A n | ldN16Sp n | jpN16 n | callN16 n => exact decode_withN16 rfl (fun _ _ => rfl) n rest
  case ldRrN16 p n => cases p <;> exact decode_withN16 rfl (fun _ _ => rfl) n rest
  case jpCcN16 cc n | callCcN16 cc n => cases cc <;> exact decode_withN16 rfl (fun _ _ => rfl) n rest
  -- the secondary table
  case rlcR r | rrcR r | rlR r | rrR r | slaR r | sraR r | swapR r | srlR r => cases r <;> exact decode_withCb rfl rest
  case bitBR b r => exact decode_withCb (decodeSecondary_bit_encoded b r).1 rest
  case bitBHl b => exact decode_withCb (decodeSecondary_bit_encoded b .a).2.1 rest
  case resBR b r => exact decode_withCb (decodeSecondary_bit_encoded b r).2.2.1 rest
  case resBHl b => exact decode_withCb (decodeSecondary_bit_encoded b .a).2.2.2.1 rest
  case setBR b r => exact decode_withCb (decodeSecondary_bit_encoded b r).2.2.2.2.1 rest
  case setBHl b => exact decode_withCb (decodeSecondary_bit_encoded b .a).2.2.2.2.2 rest
  -- fixed bytes, with an 8-bit operand after them or none
  all_goals rfl

/-! ## From bytes to an instruction and back -/

/-- `i` is what the bytes `bs` stand for: well formed, in the instruction stream, with these bytes as its encoding. -/
def ReadsBack (i : Instr) (bs : List Byte) : Prop := i.WellFormed = true ∧ i.inStream = true ∧ encode i = bs

theorem readsBack_oneByte : ∀ op : Byte, instrLength op = 1 → ReadsBack (decodeOp op 0 0) [op] := by
  unfold ReadsBack; decide

theorem readsBack_extended : ∀ op2 : Byte, ReadsBack (decodeSecondary op2) [0xCB, op2] := by
  unfold ReadsBack; decide

/-- The first bytes of the two-byte instructions (R121): `STOP`, the extended opcode's first byte, and the rows with an 8-bit operand. -/
def twoByteOps : List Byte :=
  [0x06, 0x0E, 0x16, 0x1E, 0x26, 0x2E, 0x36, 0x3E, 0x18, 0x20, 0x28, 0x30, 0x38, 0xE0, 0xE8, 0xF0, 0xF8,
   0xC6, 0xCE, 0xD6, 0xDE, 0xE6, 0xEE, 0xF6, 0xFE]

/-- The first bytes of the three-byte instructions (R121), all with a 16-bit immediate. -/
def threeByteOps : List Byte :=
  [0x01, 0x08, 0x11, 0x21, 0x31, 0xC2, 0xC3, 0xC4, 0xCA, 0xCC, 0xCD, 0xD2, 0xD4, 0xDA, 0xDC, 0xEA, 0xFA]

theorem twoByteOps_complete : ∀ op : Byte, instrLength op = 2 → op = 0x10 ∨ op = 0xCB ∨ op ∈ twoByteOps := by decide

theorem threeByteOps_complete : ∀ op : Byte, instrLength op = 3 → op ∈ threeByteOps := by decide

theorem instrLength_cases : ∀ op : Byte, instrLength op = 1 ∨ instrLength op = 2 ∨ instrLength op = 3 := by decide

theorem readsBack_twoBytes {op : Byte} (h : op ∈ twoByteOps) (b1 : Byte) : ReadsBack (decodeOp op b1 0) [op, b1] := by
  unfold twoByteOps at h
  fin_cases h <;> exact ⟨rfl, rfl, rfl⟩

theorem readsBack_threeBytes {op : Byte} (h : op ∈ threeByteOps) (b1 b2 : Byte) :
    ReadsBack (decodeOp op b1 b2) [op, b1, b2] := by
  have himm : [loByte (join16 b2 b1), hiByte (join16 b2 b1)] = [b1, b2] := by rw [loByte_join16, hiByte_join16]
  unfold threeByteOps at h
  fin_cases h <;> exact ⟨rfl, rfl, congrArg (List.cons _) himm⟩

/-- What the decoder reads is as long as its first byte says. -/
theorem decode_cases {bs rest : List Byte} {i : Instr} (h : decode bs = .ok (i, rest)) :
    (∃ op, instrLength op = 1 ∧ bs = op :: rest ∧ i = decodeOp op 0 0) ∨
    (∃ op b1, instrLength op = 2 ∧ bs = op :: b1 :: rest ∧ i = decodeOp op b1 0) ∨
    (∃ op b1 b2, instrLength op = 3 ∧ bs = op :: b1 :: b2 :: rest ∧ i = decodeOp op b1 b2) := by
  cases bs with
  | nil => cases h
  | cons op tail =>
    simp only [decode] at h
    split at h
    · next hlen => cases h; exact .inl ⟨op, hlen, rfl, rfl⟩
    · next b1 _ hlen => cases h; exact .inr (.inl ⟨op, b1, hlen, rfl, rfl⟩)
    · next b1 b2 _ hlen => cases h; exact .inr (.inr ⟨op, b1, b2, hlen, rfl, rfl⟩)
    · cases h

/-- Any three bytes begin with an instruction (R124, R127, R129). -/
theorem decode_three_total (op b1 b2 : Byte) (rest : List Byte) : ∃ i r, decode (op :: b1 :: b2 :: rest) = .ok (i, r) := by
  rcases instrLength_cases op with h | h | h <;> simp only [decode, h] <;> exact ⟨_, _, rfl⟩

/-- Settles O3: of each length, the instruction read stands for the bytes read; only `STOP` has a byte of its own choice. -/
theorem decodeThenEncode : Obligations.DecodeThenEncode := by
  refine ⟨fun bs rest i h => ?_, decode_three_total⟩
  have done : ∀ {read : List Byte}, ReadsBack i read → bs = read ++ rest →
      i.WellFormed = true ∧ i.inStream = true ∧
      (encode i ++ rest = bs ∨ (i = .stop ∧ ∃ pad : Byte, bs = 0x10 :: pad :: rest)) := by
    rintro read ⟨hwf, hin, henc⟩ rfl
    exact ⟨hwf, hin, .inl (by rw [henc])⟩
  rcases decode_cases h with ⟨op, hlen, hbs, rfl⟩ | ⟨op, b1, hlen, hbs, rfl⟩ | ⟨op, b1, b2, hlen, hbs, rfl⟩
  · exact done (readsBack_oneByte op hlen) hbs
  · rcases twoByteOps_complete op hlen with rfl | rfl | hop
    · exact ⟨rfl, rfl, .inr ⟨rfl, b1, hbs⟩⟩
    · exact done (readsBack_extended b1) hbs
    · exact done (readsBack_twoBytes hop b1) hbs
  · exact done (readsBack_threeBytes (threeByteOps_complete op hlen) b1 b2) hbs

/-- Settles O1: each word is read byte by byte. -/
theorem writtenWordsDecode : Obligations.WrittenWordsDecode :=
  ⟨rfl, rfl, rfl, rfl, rfl, rfl, rfl, rfl, rfl, rfl, rfl, rfl, rfl⟩

end Sys2Proof.Machine
end

section
/-! The register frame of every instruction (10_state.md rules R20 to R33): what an instruction keeps of the engine, closed under
doing one thing after another, so that an instruction is the chain of the shared operations it is made of. -/

namespace Sys2Proof.Machine

/-- From `s` to `t` nothing of the engine changed but what the table of `writes` gives `i`; the delay, the halt and the stop state
belong to the instructions that set them. -/
structure Keeps (i : Instr) (s t : State) : Prop where
  regs : ∀ r, r ∉ destRegs i → t.reg r = s.reg r := by intro r _; cases r <;> simp [State.reg]
  f : writesFlags i = false → t.cpu.f = s.cpu.f := by simp
  sp : writesSp i = false → t.cpu.sp = s.cpu.sp := by simp
  pc : writesPc i = false → t.cpu.pc = s.cpu.pc := by simp
  ime : writesIme i = false → t.cpu.ime = s.cpu.ime := by simp
  eiDelay : i ≠ .ei → i ≠ .di → isInterruptEntry i = false → t.cpu.eiDelay = s.cpu.eiDelay := by simp
  halted : i ≠ .halt → t.cpu.halted = s.cpu.halted := by simp
  stopped : i ≠ .stop → t.cpu.stopped = s.cpu.stopped := by simp
  cur : t.cpu.cur = s.cpu.cur := by simp
  ustep : t.cpu.ustep = s.cpu.ustep := by simp
  nextInt : t.cpu.nextInt = s.cpu.nextInt := by simp

namespace Keeps

variable {i : Instr} {s t u : State}

/-! ## Chains and register writes -/

theorem of_cpu (h : t.cpu = s.cpu) : Keeps i s t := by
  constructor <;> simp [State.reg, h]

theorem refl (s : State) : Keeps i s s := .of_cpu rfl

theorem trans (h : Keeps i s t) (h' : Keeps i t u) : Keeps i s u where
  regs r hr := (h'.regs r hr).trans (h.regs r hr)
  f hw := (h'.f hw).trans (h.f hw)
  sp hw := (h'.sp hw).trans (h.sp hw)
  pc hw := (h'.pc hw).trans (h.pc hw)
  ime hw := (h'.ime hw).trans (h.ime hw)
  eiDelay h1 h2 h3 := (h'.eiDelay h1 h2 h3).trans (h.eiDelay h1 h2 h3)
  halted hw := (h'.halted hw).trans (h.halted hw)
  stopped hw := (h'.stopped hw).trans (h.stopped hw)
  cur := h'.cur.trans h.cur
  ustep := h'.ustep.trans h.ustep
  nextInt := h'.nextInt.trans h.nextInt

theorem setReg {r : Reg8} (h : r ∈ destRegs i) (v : Byte) : Keeps i s (s.setReg r v) where
  regs r' hr' := by rw [State.reg_setReg, if_neg (by rintro rfl; exact hr' h)]

theorem setF (h : writesFlags i = true) (f : Flags) : Keeps i s (s.setF f) where
  f hw := by rw [h] at hw; cases hw

theorem setSp (h : writesSp i = true) (v : Word) : Keeps i s (s.setSp v) where
  sp hw := by rw [h] at hw; cases hw

theorem setPc (h : writesPc i = true) (v : Word) : Keeps i s (s.setPc v) where
  pc hw := by rw [h] at hw; cases hw

theorem setIme (h : writesIme i = true) (b : Bool) : Keeps i s (s.setCpu { s.cpu with ime := b }) where
  ime hw := by rw [h] at hw; cases hw

theorem endDelay (h : isInterruptEntry i = true) : Keeps i s (s.setCpu { s.cpu with eiDelay := 0 }) where
  eiDelay _ _ hw := by rw [h] at hw; cases hw

/-- The duration is the executor's own. -/
theorem setDur (n : Nat) : Keeps i s (s.setCpu { s.cpu with dur := n }) where

/-- A write of a pair is a write of its halves (R21). -/
theorem setHl (hh : .h ∈ destRegs i) (hl : .l ∈ destRegs i) (v : Word) : Keeps i s (s.setHl v) :=
  (setReg hh (hiByte v)).trans (setReg hl (loByte v))

theorem setPair {p : Pair} (h : ∀ r ∈ pairRegs p, r ∈ destRegs i) (hsp : p = .sp → writesSp i = true) (v : Word) :
    Keeps i s (s.setPair p v) := by
  cases p
  case sp => exact setSp (hsp rfl) v
  case hl => exact setHl (h .h (by decide)) (h .l (by decide)) v
  case bc => exact (setReg (h .b (by decide)) (hiByte v)).trans (setReg (h .c (by decide)) (loByte v))
  case de => exact (setReg (h .d (by decide)) (hiByte v)).trans (setReg (h .e (by decide)) (loByte v))

theorem setStackPair {q : StackPair} (h : ∀ r ∈ stackPairRegs q, r ∈ destRegs i) (hf : q = .af → writesFlags i = true)
    (v : Word) : Keeps i s (s.setStackPair q v) := by
  cases q
  case af => exact (setReg (h .a (by decide)) (hiByte v)).trans (setF (hf rfl) (Flags.ofByte (loByte v)))
  case hl => exact setHl (h .h (by decide)) (h .l (by decide)) v
  case bc => exact (setReg (h .b (by decide)) (hiByte v)).trans (setReg (h .c (by decide)) (loByte v))
  case de => exact (setReg (h .d (by decide)) (hiByte v)).trans (setReg (h .e (by decide)) (loByte v))

/-! ## Bus accesses and shared operations -/

theorem cpuWrite (a : Word) (v : Byte) : Keeps i s (cpuWrite a v s) := .of_cpu (cpuWrite_cpu a v s)

theorem cpuObserve (a : Word) : Keeps i s (cpuObserve s a) := .of_cpu (cpuObserve_cpu s a)

theorem setAF (ha : .a ∈ destRegs i) (hf : writesFlags i = true) (p : Byte × Flags) : Keeps i s (setAF p s) :=
  (setReg ha p.1).trans (setF hf p.2)

theorem loadReg {r : Reg8} (h : r ∈ destRegs i) (a : Word) : Keeps i s (loadReg r a s) := (cpuObserve a).trans (setReg h _)

theorem aluHl (ha : .a ∈ destRegs i) (hf : writesFlags i = true) (g : Byte → Byte → Byte × Flags) :
    Keeps i s (aluHl g s) := (cpuObserve _).trans (setAF ha hf _)

theorem modifyReg {r : Reg8} (h : r ∈ destRegs i) (hf : writesFlags i = true) (g : Byte → Byte × Flags) :
    Keeps i s (modifyReg g r s) := (setReg h _).trans (setF hf _)

theorem modifyHl (hf : writesFlags i = true) (g : Byte → Byte × Flags) : Keeps i s (modifyHl g s) :=
  ((cpuObserve _).trans (cpuWrite _ _)).trans (setF hf _)

theorem pushed (h : writesSp i = true) (v : Word) : Keeps i s (s.pushed v) :=
  ((cpuWrite _ _).trans (cpuWrite _ _)).trans (setSp h _)

theorem pop16 (h : writesSp i = true) : Keeps i s (pop16 s).2 := by
  rw [pop16_eq]
  exact ((cpuObserve _).trans (cpuObserve _)).trans (setSp h _)

theorem callTo (hsp : writesSp i = true) (hpc : writesPc i = true) (target : Word) : Keeps i s (callTo target s) := by
  rw [callTo_eq]
  exact (pushed hsp _).trans (setPc hpc _)

theorem popPc (hsp : writesSp i = true) (hpc : writesPc i = true) : Keeps i s (popPc s) := (pop16 hsp).trans (setPc hpc _)

theorem dispatchInterrupt (hi : isInterruptEntry i = true) (hsp : writesSp i = true) (hpc : writesPc i = true)
    (hime : writesIme i = true) (q : Irq) : Keeps i s (dispatchInterrupt q s) := by
  have hstart : Keeps i s (s.setCpu { s.cpu with ime := false, eiDelay := 0 }) := (setIme hime false).trans (endDelay hi)
  have hclear : Keeps i s { s.setCpu { s.cpu with ime := false, eiDelay := 0 } with iflag := s.iflag &&& ~~~q.mask } :=
    hstart.trans (.of_cpu rfl)
  exact hclear.trans (callTo hsp hpc q.vector)

theorem finish {n : Nat} (h : Keeps i s t) (he : finish n t = .next u) : Keeps i s u := by
  rw [finish_inj he]
  exact h.trans (setDur n)

theorem ite {b : Bool} {p q : Result} (hp : p = .next t → Keeps i s t) (hq : q = .next t → Keeps i s t)
    (h : (if b then p else q) = .next t) : Keeps i s t := by
  cases b
  · exact hq h
  · exact hp h

end Keeps

/-! ## The instructions -/

/-- An instruction other than an extended opcode's first byte keeps what the table says. -/
theorem exec_keeps_primary (i : Instr) (s t : State) (hi : ∀ o, i ≠ .cbPrefix o) (h : exec i s = .next t) : Keeps i s t := by
  have first : ∀ {r : Reg8} {l : List Reg8}, r ∈ r :: l := List.mem_cons_self
  have second : ∀ {r r' : Reg8} {l : List Reg8}, r' ∈ r :: r' :: l := .tail _ first
  cases i
  case cbPrefix o => exact absurd rfl (hi o)
  case ldRR | ldRN8 | resBR | setBR => exact .finish (.setReg first _) h
  case ldRHl | ldABc | ldADe | ldAN16 | ldhAC | ldhAN8 => exact .finish (.loadReg first _) h
  case ldHlR | ldHlN8 | ldBcA | ldDeA | ldN16A | ldhCA | ldhN8A => exact .finish (.cpuWrite _ _) h
  case ldAHld | ldAHli => exact .finish ((Keeps.loadReg first _).trans (.setHl second (.tail _ second) _)) h
  case ldHldA | ldHliA => exact .finish ((Keeps.cpuWrite _ _).trans (.setHl first second _)) h
  case ldRrN16 | incRr | decRr => exact .finish (.setPair (fun _ => id) decide_eq_true _) h
  case ldN16Sp => exact .finish ((Keeps.cpuWrite _ _).trans (.cpuWrite _ _)) h
  case ldSpHl => exact .finish (.setSp rfl _) h
  case ldHlSpE8 => exact .finish ((Keeps.setHl first second _).trans (.setF rfl _)) h
  case addSpE8 => exact .finish ((Keeps.setSp rfl _).trans (.setF rfl _)) h
  case addHlRr => exact .finish ((Keeps.setHl first second _).trans (.setF rfl _)) h
  case pushRs => exact .finish (push16_eq _ s ▸ .pushed rfl _) h
  case popRs q => exact .finish ((Keeps.pop16 rfl).trans (.setStackPair (fun _ => id) decide_eq_true _)) h
  case popAf => exact .finish ((Keeps.pop16 rfl).trans (.setStackPair (fun _ => id) (fun _ => rfl) _)) h
  case addAHl | adcAHl | subAHl | sbcAHl | andAHl | xorAHl | orAHl => exact .finish (.aluHl first rfl _) h
  case addAR | adcAR | subAR | sbcAR | andAR | xorAR | orAR => exact .finish (.setAF first rfl _) h
  case addAN8 | adcAN8 | subAN8 | sbcAN8 | andAN8 | xorAN8 | orAN8 | daa | cpl => exact .finish (.setAF first rfl _) h
  case rlca | rrca | rla | rra => exact .finish (.setAF first rfl (_, _)) h
  case cpAR | cpAN8 | scf | ccf | bitBR => exact .finish (.setF rfl _) h
  case cpAHl | bitBHl => exact .finish ((Keeps.cpuObserve _).trans (.setF rfl _)) h
  case incHl | decHl => exact .finish (.modifyHl rfl _) h
  case rlcHl | rrcHl | rlHl | rrHl | slaHl | sraHl | swapHl | srlHl => exact .finish (.modifyHl rfl _) h
  case incR | decR => exact .finish (.modifyReg first rfl _) h
  case rlcR | rrcR | rlR | rrR | slaR | sraR | swapR | srlR => exact .finish (.modifyReg first rfl _) h
  case resBHl | setBHl => exact .finish ((Keeps.cpuObserve _).trans (.cpuWrite _ _)) h
  case jpN16 | jpHl | jrE8 => exact .finish (.setPc rfl _) h
  case jpCcN16 | jrCcE8 => exact .ite (.finish (.setPc rfl _)) (.finish (.refl _)) h
  case callN16 | rstT => exact .finish (.callTo rfl rfl _) h
  case callCcN16 => exact .ite (.finish (.callTo rfl rfl _)) (.finish (.refl _)) h
  case ret => exact .finish (.popPc rfl rfl) h
  case retCc => exact .ite (.finish (.popPc rfl rfl)) (.finish (.refl _)) h
  case reti => exact .finish ((Keeps.popPc rfl rfl).trans (.setIme rfl true)) h
  case halt => exact .finish { halted := fun hne => absurd rfl hne } h
  case stop => exact .finish { stopped := fun hne => absurd rfl hne } h
  case di => exact .finish { ime := nofun, eiDelay := fun _ hne => absurd rfl hne } h
  case ei => exact .finish { eiDelay := fun hne => absurd rfl hne } h
  case intVblank | intStat | intTimer | intSerial | intJoypad => exact .finish (.dispatchInterrupt rfl rfl rfl rfl _) h
  -- `NOP` and the unassigned opcodes
  all_goals exact .finish (.refl _) h

/-- The secondary table has no instruction of the control state. -/
theorem decodeSecondary_controls_nothing : ∀ op2 : Byte, decodeSecondary op2 ≠ .ei ∧ decodeSecondary op2 ≠ .di ∧
    decodeSecondary op2 ≠ .halt ∧ decodeSecondary op2 ≠ .stop ∧ isInterruptEntry (decodeSecondary op2) = false := by decide

theorem selected_of_ne {i : Instr} (h : ∀ o, i ≠ .cbPrefix o) : selected i = i := by
  cases i
  case cbPrefix o => exact absurd rfl (h o)
  all_goals rfl

/-- An extended opcode stands for an instruction of the secondary table, another for itself. -/
theorem selected_cases (i : Instr) :
    (∃ o, i = .cbPrefix o ∧ selected i = decodeSecondary o) ∨ ((∀ o, i ≠ .cbPrefix o) ∧ selected i = i) := by
  by_cases hi : ∃ o, i = .cbPrefix o
  · obtain ⟨o, rfl⟩ := hi
    exact .inl ⟨o, rfl, rfl⟩
  · have hne : ∀ o, i ≠ .cbPrefix o := fun o ho => hi ⟨o, ho⟩
    exact .inr ⟨hne, selected_of_ne hne⟩

/-- Every instruction has the meaning of the one it stands for, which is no extended opcode's first byte. -/
theorem exec_selected (i : Instr) (s : State) : exec (selected i) s = exec i s ∧ ∀ o, selected i ≠ .cbPrefix o := by
  rcases selected_cases i with ⟨o, rfl, ho⟩ | ⟨hne, hi⟩
  · rw [ho]
    exact ⟨(exec_cbPrefix o s).symm, decodeSecondary_ne_prefix o⟩
  · rw [hi]
    exact ⟨rfl, hne⟩

/-- Every instruction keeps what the table says of the one it stands for. -/
theorem exec_keeps {i : Instr} {s t : State} (h : exec i s = .next t) : Keeps (selected i) s t := by
  obtain ⟨hexec, hne⟩ := exec_selected i s
  exact exec_keeps_primary _ s t hne (hexec.trans h)

/-- Standing for another instruction changes nothing about the control state. -/
theorem selected_controls {i : Instr} :
    (i ≠ .ei → selected i ≠ .ei) ∧ (i ≠ .di → selected i ≠ .di) ∧ (i ≠ .halt → selected i ≠ .halt) ∧
    (i ≠ .stop → selected i ≠ .stop) ∧ isInterruptEntry (selected i) = isInterruptEntry i := by
  rcases selected_cases i with ⟨o, rfl, ho⟩ | ⟨-, hi⟩
  · obtain ⟨hei, hdi, hhalt, hstop, hint⟩ := decodeSecondary_controls_nothing o
    rw [ho]
    exact ⟨fun _ => hei, fun _ => hdi, fun _ => hhalt, fun _ => hstop, hint⟩
  · rw [hi]
    exact ⟨id, id, id, id, rfl⟩

/-- Settles O25: the table's footprint of the instruction selected, and the bus's for the parameters and the session. -/
theorem registerFrame : Obligations.RegisterFrame := by
  intro i s t h
  have hk := exec_keeps h
  have ha := exec_access i s t h
  obtain ⟨hei, hdi, hhalt, hstop, hint⟩ := selected_controls (i := i)
  exact ⟨hk.regs, hk.f, hk.sp, hk.pc, hk.ime, fun h1 h2 h3 => hk.eiDelay (hei h1) (hdi h2) (hint.trans h3),
    fun h1 => hk.halted (hhalt h1), fun h1 => hk.stopped (hstop h1), hk.cur, hk.ustep, hk.nextInt, ha.cfg, ha.session⟩

end Sys2Proof.Machine
end

section
/-! Registers and pairs (10_state.md rules R20, R21), and the five interrupt entries (60_exceptions.md rules R306, R307). -/

namespace Sys2Proof.Machine

/-- Settles O24: a register reads what was written to it alone, and a pair is its two halves. -/
theorem registersAndPairs : Obligations.RegistersAndPairs := fun s r r' v p w =>
  ⟨s.reg_setReg r r' v, rfl, rfl, rfl, s.pair_setPair p w, rfl, rfl, rfl, rfl, rfl, rfl, rfl, rfl, rfl,
    s.setReg_cpu_f r v, s.setReg_cpu_sp r v, s.setReg_cpu_pc r v⟩

/-- No bytes decode to an instruction outside the stream (30_encoding.md rule R128). -/
theorem decode_ne_of_not_inStream {i : Instr} (hi : i.inStream = false) (bs rest : List Byte) : decode bs ≠ .ok (i, rest) := by
  intro h
  obtain ⟨-, hin, -⟩ := decodeThenEncode.1 bs rest i h
  rw [hi] at hin
  cases hin

/-- Settles O23: the dispatch of each source, whose request bit and handler are computed. -/
theorem interruptDispatch : Obligations.InterruptDispatch := by
  intro s entry
  have dispatch : ∀ (i : Instr) (q : Irq), i.inStream = false → exec i s = finish 20 (dispatchInterrupt q s) →
      entry i q.index q.vector := fun i q hi he =>
    ⟨⟨_, he, by rw [dispatchInterrupt_eq]; rfl⟩, decode_ne_of_not_inStream hi⟩
  exact ⟨dispatch _ .vblank rfl rfl, dispatch _ .stat rfl rfl, dispatch _ .timer rfl rfl, dispatch _ .serial rfl rfl,
    dispatch _ .joypad rfl rfl⟩

end Sys2Proof.Machine
end

section
/-! The engine on one tick of the running clock (60_exceptions.md rules R305, R311, R316, R317), and the stop state (R313). -/

namespace Sys2Proof.Machine

variable {s : State}

/-! ## The fetch -/

/-- A fetch at a given address. -/
theorem fetch8_setPc (s : State) (a : Word) : fetch8 (s.setPc a) = (cpuPeek s a, (cpuObserve s a).setPc (a + 1)) := by
  rw [fetch8_eq, State.setPc_eq, State.setCpu_cpu, cpuPeek_setCpu, cpuObserve_setCpu]
  simp [State.setPc_eq]

/-- The bytes fetched are those the decoder needs, and `pc` is left past them (10_state.md rule R26). -/
theorem fetchInstr_of_decode {i : Instr} {rest : List Byte} :
    let pc := s.cpu.pc
    let s1 := cpuObserve s pc
    let s2 := cpuObserve s1 (pc + 1)
    let s3 := cpuObserve s2 (pc + 2)
    decode [cpuPeek s pc, cpuPeek s1 (pc + 1), cpuPeek s2 (pc + 2)] = .ok (i, rest) →
    fetchInstr s = (i, (if rest.length = 2 then s1 else if rest.length = 1 then s2 else s3).setPc
      (pc + BitVec.ofNat 16 (3 - rest.length))) := by
  intro pc s1 s2 s3 h
  have hfirst : fetchInstr s = fetchRest (cpuPeek s pc) (s1.setPc (pc + 1)) := by rw [fetchInstr, fetch8_eq]
  have h2 : pc + 1 + 1 = pc + 2 := by bv_omega
  have h3 : pc + 2 + 1 = pc + 3 := by bv_omega
  rw [hfirst]
  rcases decode_cases h with ⟨op, hlen, hbs, rfl⟩ | ⟨op, b1, hlen, hbs, rfl⟩ | ⟨op, b1, b2, hlen, hbs, rfl⟩
  all_goals
    cases hbs
    simp only [fetchRest, hlen, fetch8_setPc, h2, h3]
    rfl

/-! ## The first tick of an instruction -/

/-- The state in which the executor of `i` begins. -/
def State.starting (s : State) (i : Instr) : State := s.setCpu { s.cpu with cur := some i, ustep := 0 }

/-- The first tick has the whole effect and is the first of at least four (log 6). -/
theorem executorStep_starting (i : Instr) (s : State) : ∃ t, exec i (s.starting i) = .next t ∧
    executorStep i (s.starting i) = .next (t.setCpu { t.cpu with ustep := 1 }) := by
  obtain ⟨t, ht, hdur⟩ := exec_completes i (s.starting i)
  have hustep : t.cpu.ustep = 0 := (exec_keeps ht).ustep
  have hidle : idleTick t = t.setCpu { t.cpu with ustep := 1 } := by
    rw [idleTick_running (by omega), hustep]
  exact ⟨t, ht, (executorStep_first rfl ht).trans (by rw [hidle])⟩

/-- Settles O27: the fetch reads the decoder's bytes, and the first tick has the instruction's whole effect. -/
theorem stepRunsDecodedInstruction : Obligations.StepRunsDecodedInstruction := by
  intro s i rest hrun u pc u1 u2 u3 hat hnext hdec v
  have hcpu : v.cpu = u.cpu := by
    show (if _ then _ else _ : State).cpu = _
    split_ifs <;> simp [u1, u2, u3]
  obtain ⟨t, hexec, hstep⟩ := executorStep_starting i (v.setPc (pc + BitVec.ofNat 16 (3 - rest.length)))
  have hfetch : decodeStep u = (i, v.setPc (pc + BitVec.ofNat 16 (3 - rest.length))) := by
    rw [decodeStep, hnext]
    exact fetchInstr_of_decode hdec
  have hstart : startStep u = .next (t.setCpu { t.cpu with ustep := 1 }) := by
    rw [startStep, hfetch]
    exact hstep
  refine ⟨t, ?_, step_running hrun ((engineStep_decode hat).trans hstart)⟩
  rw [← hcpu]
  exact hexec

/-- Settles O28: the entry is executed as an instruction is, without a fetch. -/
theorem interruptReplacesDecode : Obligations.InterruptReplacesDecode := by
  intro s q hrun u hat hnext
  obtain ⟨t, hexec, hstep⟩ := executorStep_starting (interruptInstr q) (u.setCpu { u.cpu with nextInt := none })
  have hdec : decodeStep u = (interruptInstr q, u.setCpu { u.cpu with nextInt := none }) := by rw [decodeStep, hnext]
  have hstart : startStep u = .next (t.setCpu { t.cpu with ustep := 1 }) := by
    rw [startStep, hdec]
    exact hstep
  exact ⟨interruptInstr q, t, by cases q <;> rfl, hexec, step_running hrun ((engineStep_decode hat).trans hstart)⟩

/-! ## The other ticks -/

/-- Settles O29: a tick counts, and the last one is the completion step. -/
theorem completionStep : Obligations.CompletionStep := by
  intro s i hrun u pend ime hstall hcur hustep
  have hengine : engineStep u = .next (idleTick u) := by
    rw [engineStep_unstalled hstall, hcur]
    exact executorStep_later hustep
  rw [step_running hrun hengine]
  refine ⟨fun h => by rw [idleTick_running h], fun h => ?_⟩
  have hnext : (if ime = true then lowestIrq pend else none) = if ime = true ∧ pend ≠ 0 then lowestIrq pend else none := by
    by_cases hp : pend = 0
    · rw [hp, lowestIrq_zero, ite_self, ite_self]
    · simp only [hp, ne_eq, not_false_eq_true, and_true]
  rw [idleTick_done h, completeStep_eq, ← hnext]
  rfl

/-- Settles O33: a stall and a suspending transfer are tested before the engine's own state. -/
theorem stallSuspendsEngine : Obligations.StallSuspendsEngine := by
  intro s hrun u
  refine ⟨fun h => step_running hrun (if_pos h), fun h h' hleft => step_running hrun ?_⟩
  unfold engineStep
  rw [if_neg (Nat.not_lt.2 h.le), if_pos (by rw [h', decide_eq_true hleft]; rfl)]

/-- Settles O34: a tick or a call of the stop state, each answers. -/
theorem stepAlwaysCompletes : Obligations.StepAlwaysCompletes := by
  have run : ∀ s, clockStopped s = false → ∃ t, step s = .next t := fun s h =>
    (engineStep_next (engineView s)).elim fun _ ht => ⟨_, step_running h ht.1⟩
  intro s
  cases hc : clockStopped s
  · exact run s hc
  · cases hb : anyButton (nextMask s)
    · exact ⟨_, step_asleep hc hb⟩
    · exact step_woken hc hb ▸ run (restart s) rfl

/-! ## The stop state -/

theorem anyButton_iff (m : BitVec 8) :
    anyButton m = true ↔ ∃ i : Fin 8, m.getLsbD (Config.joypadLayout i) = true := by
  simp only [anyButton, buttonIn, Bool.or_eq_true, Fin.exists_fin_succ, or_assoc]
  simp

/-- A call of the stop state that makes no tick leaves the buffers it returns. -/
theorem frameResult_takeMask (s : State) : frameResult (takeMask s) = frameResult s := rfl

/-- Settles O32: asleep, only the mask is taken; woken, the step is the restarted state's. -/
theorem stopState : Obligations.StopState := by
  intro s hstop m pressed r
  refine ⟨fun h => ?_, fun h => ⟨rfl, step_woken hstop ((anyButton_iff m).2 h), fun htick => ?_⟩⟩
  · have hb : anyButton (nextMask s) = false := Bool.eq_false_iff.2 fun hb => h ((anyButton_iff m).1 hb)
    exact ⟨_, step_asleep hstop hb, rfl, frameResult_takeMask s⟩
  · have hbegin : beginFrame r = takeMask r := if_pos htick
    rw [hbegin]
    exact ⟨rfl, rfl⟩

end Sys2Proof.Machine
end

section
/-! The invariants of a step: canonical memory, the engine's control state and the device counters. Each is kept by every part of
a step, so it is kept by the step. -/

namespace Sys2Proof.Machine

variable {s t u : State}

/-! ## The parts of a step -/

@[simp] theorem engineView_cpu (s : State) : (engineView s).cpu = s.cpu := (busStep_outside _).cpu.trans (beginFrame_cpu s)

@[simp] theorem afterEngine_cpu (u : State) : (afterEngine u).cpu = u.cpu := by
  rw [afterEngine, endIfStopped_cpu, endTick_cpu, (videoStep_outside _).cpu, (audioStep_outside u).cpu]

@[simp] theorem clockStopped_engineView (s : State) : clockStopped (engineView s) = clockStopped s := by
  rw [clockStopped, engineView_cpu]
  rfl

/-- What holds before a step holds after it, if every part of a step keeps it: the mask taken, the stop state left, the bus step,
the engine's step with the clock running, and the steps that follow it. -/
theorem step_keeps {P : State → Prop} (hmask : ∀ s, P s → P (takeMask s)) (hrestart : ∀ s, P s → P (restart s))
    (hbus : ∀ s, P s → P (engineView s))
    (hengine : ∀ u v, clockStopped u = false → engineStep u = .next v → Access u v → P u → P v)
    (hafter : ∀ u, P u → P (afterEngine u)) (h : step s = .next t) (hs : P s) : P t := by
  rcases step_cases h with ⟨-, rfl⟩ | ⟨r, u, hr, hu, ha, rfl⟩
  · exact hmask s hs
  · rcases hr with ⟨rfl, hrun⟩ | ⟨rfl, -⟩
    · exact hafter u (hengine _ u (by rw [clockStopped_engineView, hrun]) hu ha (hbus _ hs))
    · exact hafter u (hengine _ u (clockStopped_engineView _) hu ha (hbus _ (hrestart s hs)))

/-! ## Memory -/

theorem engineView_memWf (h : s.memWf) : (engineView s).memWf := (busStep_outside _).memWf (by rw [beginFrame_parts]; exact h)

theorem afterEngine_memWf (h : u.memWf) : (afterEngine u).memWf := by
  have hvideo := (videoStep_outside _).memWf ((audioStep_outside u).memWf h)
  rw [afterEngine, endIfStopped_parts, endTick_parts]
  exact hvideo

/-- Settles O58: every part of a step writes memory through `Memory.set`. -/
theorem stepKeepsMemoryCanonical : Obligations.StepKeepsMemoryCanonical := fun _ _ hs h =>
  step_keeps (P := fun s => Memory.wf s.mem) (fun _ => id) (fun _ => id) (fun _ => engineView_memWf) (fun _ _ _ _ ha => ha.memWf)
    (fun _ => afterEngine_memWf) h hs

/-! ## The engine's control state -/

/-- The clauses of `ControlOk` that the engine's part of the state decides. -/
structure CpuOk (c : Cpu) : Prop where
  eiDelay : c.eiDelay ≤ 2
  oneRest : c.halted = true → c.stopped = false
  started : c.cur ≠ none → 0 < c.ustep

/-- The `EI` delay after an instruction: 2 or as it was after `EI`, ended by `DI` and an interrupt entry, kept by every other. -/
theorem exec_eiDelay {i : Instr} (h : exec i s = .next t) :
    t.cpu.eiDelay = s.cpu.eiDelay ∨ t.cpu.eiDelay = 0 ∨ t.cpu.eiDelay = 2 := by
  have hk := exec_keeps h
  obtain ⟨hei, hdi, -, -, hint⟩ := selected_controls (i := i)
  have hother : i ≠ .ei → i ≠ .di → isInterruptEntry i = false → t.cpu.eiDelay = s.cpu.eiDelay := fun h1 h2 h3 =>
    hk.eiDelay (hei h1) (hdi h2) (hint.trans h3)
  have hentry : ∀ q, exec i s = finish 20 (dispatchInterrupt q s) → t.cpu.eiDelay = 0 := fun q he => by
    rw [he, dispatchInterrupt_eq] at h
    rw [finish_inj h]
    simp [State.lasting, State.pushed]
  cases i
  case ei =>
    by_cases h0 : s.cpu.eiDelay = 0
    · rw [exec_ei_idle h0] at h
      exact .inr (.inr (by rw [finish_inj h]; rfl))
    · rw [exec_ei_running h0] at h
      exact .inl (by rw [finish_inj h]; rfl)
  case di => exact .inr (.inl (by rw [finish_inj (n := 4) h]; rfl))
  case intVblank | intStat | intTimer | intSerial | intJoypad => exact .inr (.inl (hentry _ rfl))
  all_goals exact .inl (hother nofun nofun rfl)

/-- From a running engine an instruction enters the halt state or the stop state, never both. -/
theorem exec_oneRest {i : Instr} (h : exec i s = .next t) (hhalt : s.cpu.halted = false) (hstop : s.cpu.stopped = false)
    (ht : t.cpu.halted = true) : t.cpu.stopped = false := by
  have hk := exec_keeps h
  obtain ⟨-, -, hne, hne', -⟩ := selected_controls (i := i)
  by_cases hi : i = .halt
  · rw [hk.stopped (hne' (by rw [hi]; nofun)), hstop]
  · rw [hk.halted (hne hi), hhalt] at ht
    cases ht

/-- A decode moves `pc` and takes the interrupt loaded, nothing else of the engine. -/
theorem decodeStep_cpu (s : State) : ∃ pc next, (decodeStep s).2.cpu = { s.cpu with pc := pc, nextInt := next } := by
  have hfetch : ∀ v : State, ∀ pc, v.cpu = { s.cpu with pc := pc } → (fetch8 v).2.cpu = { s.cpu with pc := pc + 1 } := by
    intro v pc hv
    rw [fetch8_eq, State.setPc_eq, State.setCpu_cpu, cpuObserve_cpu, hv]
  have h1 := hfetch s s.cpu.pc rfl
  have h2 := hfetch _ _ h1
  have h3 := hfetch _ _ h2
  unfold decodeStep
  split
  · exact ⟨s.cpu.pc, none, rfl⟩
  · unfold fetchInstr fetchRest
    dsimp only
    split
    · exact ⟨_, s.cpu.nextInt, h1⟩
    · exact ⟨_, s.cpu.nextInt, h2⟩
    · exact ⟨_, s.cpu.nextInt, h3⟩

theorem idleTick_cpuOk (h : CpuOk u.cpu) : CpuOk (idleTick u).cpu := by
  rcases Nat.lt_or_ge (u.cpu.ustep + 1) u.cpu.dur with hd | hd
  · rw [idleTick_running hd]
    exact ⟨h.eiDelay, h.oneRest, fun _ => Nat.succ_pos _⟩
  · rw [idleTick_done hd, completeStep_eq]
    exact ⟨(Nat.sub_le _ _).trans h.eiDelay, fun hh => h.oneRest (Bool.and_eq_true_iff.1 hh).1, fun hcur => absurd rfl hcur⟩

theorem haltTick_cpuOk (h : CpuOk u.cpu) : CpuOk (haltTick u).cpu := by
  by_cases hp : pending u = 0
  · rw [haltTick_asleep hp]
    exact h
  · rw [haltTick_woken hp]
    exact ⟨h.eiDelay, nofun, h.started⟩

theorem startStep_cpuOk (h : CpuOk u.cpu) (hhalt : u.cpu.halted = false) (hstop : u.cpu.stopped = false)
    (hu : startStep u = .next t) : CpuOk t.cpu := by
  obtain ⟨pc, next, hcpu⟩ := decodeStep_cpu u
  obtain ⟨v, hexec, hstep⟩ := executorStep_starting (decodeStep u).1 (decodeStep u).2
  rw [startStep] at hu
  cases hstep.symm.trans hu
  have hstart : ((decodeStep u).2.starting (decodeStep u).1).cpu =
      { u.cpu with pc := pc, nextInt := next, cur := some (decodeStep u).1, ustep := 0 } := by
    rw [State.starting, hcpu]
    rfl
  have hrest := exec_oneRest hexec (by rw [hstart]; exact hhalt) (by rw [hstart]; exact hstop)
  refine ⟨?_, hrest, fun _ => Nat.one_pos⟩
  have hdelay := exec_eiDelay hexec
  have hle := h.eiDelay
  rw [hstart] at hdelay
  change v.cpu.eiDelay ≤ 2
  change v.cpu.eiDelay = u.cpu.eiDelay ∨ _ at hdelay
  omega

/-- The engine's step keeps its control state while the clock runs. -/
theorem engineStep_cpuOk (hrun : clockStopped u = false) (hu : engineStep u = .next t) (h : CpuOk u.cpu) : CpuOk t.cpu := by
  unfold engineStep at hu
  split at hu
  · cases hu; exact h
  split at hu
  · cases hu; exact h
  split at hu
  · next i hcur =>
    rw [executorStep_later (h.started (by rw [hcur]; nofun))] at hu
    cases hu
    exact idleTick_cpuOk h
  · next hcur =>
    split at hu
    · cases hu
      exact haltTick_cpuOk h
    · next hhalt =>
      refine startStep_cpuOk h (Bool.eq_false_iff.2 hhalt) ?_ hu
      rw [clockStopped, hcur] at hrun
      simpa using hrun

/-- After a step a stopped clock stands at a frame boundary (log 9). -/
theorem step_betweenCalls (hs : ControlOk s) (h : step s = .next t) (hstop : clockStopped t = true) :
    atFrameBoundary t = true := by
  rcases step_cases h with ⟨hs', rfl⟩ | ⟨r, u, -, -, -, rfl⟩
  · exact hs.betweenCalls hs'
  · exact decide_eq_true (endIfStopped_boundary hstop)

/-- Settles O59: the engine's clauses part by part, the last clause at the end of the step. -/
theorem stepKeepsControlState : Obligations.StepKeepsControlState := by
  intro s t hs h
  have hcpu : CpuOk t.cpu := step_keeps (P := fun s => CpuOk s.cpu) (fun _ => id)
    (fun _ h => ⟨h.eiDelay, fun _ => rfl, h.started⟩) (fun s hs => by rwa [engineView_cpu])
    (fun _ _ hrun hu _ => engineStep_cpuOk hrun hu) (fun u hu => by rwa [afterEngine_cpu]) h
    ⟨hs.eiDelay, hs.oneRest, hs.started⟩
  exact ⟨hcpu.eiDelay, hcpu.oneRest, hcpu.started, step_betweenCalls hs h⟩

/-! ## The counters of the devices -/

theorem oamDmaStep_left (s : State) : (oamDmaStep s).dma.left = s.dma.left - 1 := by
  unfold oamDmaStep
  split
  · rfl
  · omega

theorem engineView_left (s : State) : (engineView s).dma.left = s.dma.left - 1 := by
  rw [engineView, busStep, joypadStep_parts]
  change (oamDmaStep _).dma.left = _
  rw [oamDmaStep_left, timerStep_parts, beginFrame_parts]

theorem engineView_video (s : State) : (engineView s).video = s.video := by
  rw [engineView, busStep_parts, beginFrame_parts]

theorem engineView_frameTick (s : State) : (engineView s).session.frameTick = s.session.frameTick := by
  rw [engineView, (busStep_outside _).session, beginFrame_frameTick]

/-- The position in the frame and the sprite list after the action at a position. -/
theorem videoAct_counters (s : State) : (videoAct s).video.dot = s.video.dot ∧ (videoAct s).video.ly = s.video.ly ∧
    (s.video.sprites.length ≤ 10 → (videoAct s).video.sprites.length ≤ 10) := by
  have hstart : (visibleLineStart s).video.dot = s.video.dot ∧ (visibleLineStart s).video.ly = s.video.ly ∧
      (visibleLineStart s).video.sprites.length ≤ 10 := by
    unfold visibleLineStart setMode
    simp only [State.requestIf_video, State.setIo_video]
    rw [lineCompare_parts]
    dsimp only
    rw [newFrame_parts]
    exact ⟨rfl, rfl, List.length_take_le _ _⟩
  unfold videoAct
  split_ifs
  · exact ⟨hstart.1, hstart.2.1, fun _ => hstart.2.2⟩
  · exact ⟨rfl, rfl, id⟩
  · unfold hblank setMode
    simp only [State.requestIf_video]
    rw [hblankDma_parts]
    exact ⟨rfl, rfl, id⟩
  · exact ⟨rfl, rfl, id⟩
  · exact ⟨rfl, rfl, id⟩
  · rw [vblankLineStart_parts]
    exact ⟨rfl, rfl, id⟩
  · exact ⟨rfl, rfl, id⟩

/-- The position after a step with the display on (R336). -/
theorem videoAdvance_counters (s : State) :
    (videoAdvance s).video.dot = (if s.video.dot = 455 then 0 else s.video.dot + 1) ∧
    (videoAdvance s).video.ly =
      (if s.video.dot = 455 then (if s.video.ly = 153 then 0 else s.video.ly + 1) else s.video.ly) ∧
    (videoAdvance s).video.sprites = s.video.sprites := by
  unfold videoAdvance Config.dotsPerLine Config.linesPerFrame
  simp only [Nat.reduceEqDiff]
  split <;> exact ⟨rfl, rfl, rfl⟩

theorem videoStep_counters (hdot : s.video.dot < 456) (hly : s.video.ly < 154) (hsprites : s.video.sprites.length ≤ 10) :
    (videoStep s).video.dot < 456 ∧ (videoStep s).video.ly < 154 ∧ (videoStep s).video.sprites.length ≤ 10 := by
  cases hon : lcdOn s
  · rw [videoStep_off s hon]
    exact ⟨Nat.succ_pos _, Nat.succ_pos _, hsprites⟩
  · obtain ⟨hd, hl, hs⟩ := videoAct_counters s
    obtain ⟨hd', hl', hs'⟩ := videoAdvance_counters (videoAct s)
    rw [videoStep_on s hon, hd', hl', hs', hd, hl]
    refine ⟨?_, ?_, hs hsprites⟩
    · split <;> omega
    · split_ifs <;> omega

theorem endTick_frameTick (s : State) :
    (endTick s).session.frameTick = if s.session.frameTick = 70223 then 0 else s.session.frameTick + 1 := by
  unfold endTick Config.ticksPerFrame
  simp only [Nat.reduceEqDiff]
  split <;> rfl

theorem endIfStopped_frameTick (s : State) :
    (endIfStopped s).session.frameTick = if clockStopped s then 0 else s.session.frameTick := by
  unfold endIfStopped
  split <;> rfl

/-- The tick of the frame after the units' steps. -/
theorem afterEngine_frameTick (u : State) : (afterEngine u).session.frameTick =
    if clockStopped u then 0 else if u.session.frameTick = 70223 then 0 else u.session.frameTick + 1 := by
  have hstop : clockStopped (endTick (videoStep (audioStep u))) = clockStopped u := by
    rw [clockStopped, endTick_cpu, (videoStep_outside _).cpu, (audioStep_outside u).cpu]
    rfl
  rw [afterEngine, endIfStopped_frameTick, hstop, endTick_frameTick, (videoStep_outside _).session,
    (audioStep_outside u).session]

theorem engineView_countersOk (h : CountersOk s) : CountersOk (engineView s) where
  dma := by rw [engineView_left]; exact (Nat.sub_le _ _).trans h.dma
  dot := by rw [engineView_video]; exact h.dot
  ly := by rw [engineView_video]; exact h.ly
  sprites := by rw [engineView_video]; exact h.sprites
  tick := by rw [engineView_frameTick]; exact h.tick

theorem Access.countersOk (ha : Access s t) (h : CountersOk s) : CountersOk t where
  dma := ha.dma h.dma
  dot := by rw [ha.video]; exact h.dot
  ly := by rw [ha.video]; exact h.ly
  sprites := by rw [ha.video]; exact h.sprites
  tick := by rw [ha.session]; exact h.tick

theorem afterEngine_countersOk (h : CountersOk u) : CountersOk (afterEngine u) := by
  have haudio : (audioStep u).video = u.video ∧ (audioStep u).dma = u.dma := by rw [audioStep_parts]; exact ⟨rfl, rfl⟩
  have hend : ∀ v : State, (endIfStopped (endTick v)).video = v.video ∧ (endIfStopped (endTick v)).dma = v.dma := fun v => by
    rw [endIfStopped_parts, endTick_parts]; exact ⟨rfl, rfl⟩
  have hvideo : (afterEngine u).video = (videoStep (audioStep u)).video := (hend _).1
  have hdma : (afterEngine u).dma = u.dma := by
    refine (hend _).2.trans ?_
    rw [videoStep_parts, haudio.2]
  obtain ⟨hdot, hly, hsprites⟩ := videoStep_counters (s := audioStep u) (by rw [haudio.1]; exact h.dot)
    (by rw [haudio.1]; exact h.ly) (by rw [haudio.1]; exact h.sprites)
  refine ⟨by rw [hdma]; exact h.dma, by rw [hvideo]; exact hdot, by rw [hvideo]; exact hly, by rw [hvideo]; exact hsprites, ?_⟩
  have htick := h.tick
  rw [afterEngine_frameTick]
  split_ifs <;> omega

/-- Settles O60: the bus step counts the transfer down, the video step the position, the end of the tick the frame. -/
theorem stepKeepsCounters : Obligations.StepKeepsCounters := fun _ _ hs h =>
  step_keeps (P := CountersOk) (fun _ h => ⟨h.dma, h.dot, h.ly, h.sprites, h.tick⟩)
    (fun _ h => ⟨h.dma, h.dot, h.ly, h.sprites, h.tick⟩) (fun _ => engineView_countersOk) (fun _ _ _ _ ha => ha.countersOk)
    (fun _ => afterEngine_countersOk) h hs

/-- Settles O57: at reset memory lists nothing and every counter is 0. -/
theorem resetMeetsInvariants : Obligations.ResetMeetsInvariants :=
  ⟨Sparse.wf_nil _, ⟨by decide, nofun, fun h => absurd rfl h, nofun⟩,
    ⟨by decide, by decide, by decide, by decide, by decide⟩⟩

end Sys2Proof.Machine
end

section
/-! Frame calls (60_exceptions.md rules R347, R356, R359): the cadence of the sample pairs as an invariant of a step, the end of a
call, and the two buffers the host is given. -/

namespace Sys2Proof.Machine

variable {s t u : State}

/-! ## The cadence -/

theorem filter_lt_range (c n : Nat) (h : c ≤ n) : (List.range n).filter (fun k => decide (k < c)) = List.range c := by
  obtain ⟨d, rfl⟩ := Nat.exists_eq_add_of_le h
  rw [List.range_add, List.filter_append, List.filter_eq_self.2 (by simp), List.filter_eq_nil_iff.2 (by simp),
    List.append_nil]

/-- Pair `k` is taken before tick `t` exactly if `k` is below `t * n / 70224`, rounded up. -/
theorem div_lt_iff_lt_ceilDiv {n : Nat} (hn : 0 < n) (k t : Nat) : k * 70224 / n < t ↔ k < ceilDiv (t * n) 70224 := by
  rw [Nat.div_lt_iff_lt_mul hn, ceilDiv, Nat.lt_div_iff_mul_lt (by decide)]
  omega

theorem ceilDiv_frame_le (n : Nat) {t : Nat} (ht : t ≤ 70224) : ceilDiv (t * n) 70224 ≤ n := by
  have hmul := Nat.mul_le_mul_right n ht
  unfold ceilDiv
  omega

/-- How many of the pairs are due before tick `t` (R356). -/
theorem length_due (n : Nat) {t : Nat} (ht : t ≤ 70224) :
    ((List.range n).filter (fun k => decide (k * 70224 / n < t))).length = ceilDiv (t * n) 70224 := by
  rcases Nat.eq_zero_or_pos n with rfl | hn
  · rw [Nat.mul_zero]
    rfl
  · simp only [div_lt_iff_lt_ceilDiv hn]
    rw [filter_lt_range _ _ (ceilDiv_frame_le n ht), List.length_range]

theorem cadenceOk_iff (s : State) : CadenceOk s ↔ s.session.frameTick < 70224 ∧
    s.audio.pairs.length = ceilDiv (s.session.frameTick * s.cfg.samplesPerFrame) 70224 := by
  constructor
  · rintro ⟨htick, hcount⟩
    exact ⟨htick, by rw [hcount, length_due _ htick.le]⟩
  · rintro ⟨htick, hcount⟩
    exact ⟨htick, by rw [hcount, length_due _ htick.le]⟩

theorem CadenceOk.congr (htick : t.session.frameTick = s.session.frameTick) (hcfg : t.cfg = s.cfg)
    (hpairs : t.audio.pairs = s.audio.pairs) (h : CadenceOk s) : CadenceOk t := by
  rw [cadenceOk_iff] at h ⊢
  rw [htick, hcfg, hpairs]
  exact h

/-- At a frame boundary no pair is taken. -/
theorem cadenceOk_boundary (htick : t.session.frameTick = 0) (hpairs : t.audio.pairs = []) : CadenceOk t := by
  rw [cadenceOk_iff, htick, hpairs, Nat.zero_mul]
  exact ⟨by decide, rfl⟩

/-! ## The pairs in a step -/

theorem engineView_audio (s : State) : (engineView s).audio = s.audio := by
  have hbegin : (beginFrame s).audio = s.audio := by rw [beginFrame_parts]
  rw [engineView, busStep_parts, hbegin]

theorem engineView_cfg (s : State) : (engineView s).cfg = s.cfg := by
  have hbegin : (beginFrame s).cfg = s.cfg := by rw [beginFrame_parts]
  rw [engineView, (busStep_outside _).cfg, hbegin]

/-- The sweep, the envelopes and the counters leave the pairs and the buffer alone. -/
theorem sequencerTick_pairs (s : State) :
    (sequencerTick s).audio.pairs = s.audio.pairs ∧ (sequencerTick s).audio.out = s.audio.out := by
  have chain : ∀ {f : State → State} (_ : ∀ v, (f v).audio.pairs = v.audio.pairs ∧ (f v).audio.out = v.audio.out) (dv : Nat)
      (v : State), (onDivisor dv f v).audio.pairs = v.audio.pairs ∧ (onDivisor dv f v).audio.out = v.audio.out := by
    intro f hf dv v
    unfold onDivisor
    split
    · exact hf v
    · exact ⟨rfl, rfl⟩
  have hsweep : ∀ v, (sweepStep v).audio.pairs = v.audio.pairs ∧ (sweepStep v).audio.out = v.audio.out := by
    intro v
    unfold sweepStep sweepFire setPeriod1
    dsimp only
    split_ifs <;> exact ⟨rfl, rfl⟩
  have h1 := chain (f := lengthStep) (fun _ => ⟨rfl, rfl⟩) s.cfg.lenDiv s
  have h2 := chain hsweep s.cfg.sweepDiv (onDivisor s.cfg.lenDiv lengthStep s)
  have h3 := chain (f := envelopeStep) (fun _ => ⟨rfl, rfl⟩) Config.frameSeqPeriod
    (onDivisor s.cfg.sweepDiv sweepStep (onDivisor s.cfg.lenDiv lengthStep s))
  exact ⟨h3.1.trans (h2.1.trans h1.1), h3.2.trans (h2.2.trans h1.2)⟩

/-- The mix does not see the pairs. -/
theorem mix_pairs (u : State) (pairs : List (Nat × Nat)) :
    mixLeft { u with audio := { u.audio with pairs := pairs } } = mixLeft u ∧
    mixRight { u with audio := { u.audio with pairs := pairs } } = mixRight u := ⟨rfl, rfl⟩

theorem mix_sampleTick (u : State) : mixLeft (sampleTick u) = mixLeft u ∧ mixRight (sampleTick u) = mixRight u :=
  mix_pairs u _

theorem sampleTick_pairs (u : State) : (sampleTick u).audio.pairs =
    List.replicate (pairsAt u.cfg.samplesPerFrame u.session.frameTick) (mixLeft u, mixRight u) ++ u.audio.pairs := rfl

/-- The pairs of a tick are copies of the mix after the channels' tick, in front of those taken before (R355, R356). -/
theorem audioStep_pairs (s : State) : (audioStep s).audio.pairs =
    List.replicate (pairsAt s.cfg.samplesPerFrame s.session.frameTick) (mixLeft (audioStep s), mixRight (audioStep s)) ++
      s.audio.pairs := by
  have ha : Outside s (channelsTick (sequencerTick s)) := (sequencerTick_outside s).trans (channelsTick_outside _)
  have hpairs : (channelsTick (sequencerTick s)).audio.pairs = s.audio.pairs := (sequencerTick_pairs s).1
  obtain ⟨hleft, hright⟩ := mix_sampleTick (channelsTick (sequencerTick s))
  rw [audioStep, sampleTick_pairs, hleft, hright, ha.cfg, ha.session, hpairs]

theorem videoStep_audio (s : State) : (videoStep s).audio = s.audio := by rw [videoStep_parts]

/-- The state after the audio and the video step of a tick. -/
def afterUnits (u : State) : State := videoStep (audioStep u)

theorem afterUnits_outside (u : State) : Outside u (afterUnits u) := (audioStep_outside u).trans (videoStep_outside _)

/-- After the units' steps the pairs due by the next tick are taken. -/
theorem afterUnits_length_pairs (h : CadenceOk u) :
    (afterUnits u).audio.pairs.length = ceilDiv ((u.session.frameTick + 1) * u.cfg.samplesPerFrame) 70224 := by
  have hle : ceilDiv (u.session.frameTick * u.cfg.samplesPerFrame) 70224 ≤
      ceilDiv ((u.session.frameTick + 1) * u.cfg.samplesPerFrame) 70224 := by
    have hmul := Nat.mul_le_mul_right u.cfg.samplesPerFrame (Nat.le_add_right u.session.frameTick 1)
    unfold ceilDiv
    omega
  rw [afterUnits, videoStep_audio, audioStep_pairs, List.length_append, List.length_replicate, ((cadenceOk_iff u).1 h).2]
  exact Nat.sub_add_cancel hle

/-! ## The end of a tick -/

theorem endTick_last (h : s.session.frameTick = 70223) : endTick s = endFrame s := if_pos (by rw [h]; rfl)

theorem endTick_within (h : s.session.frameTick < 70223) :
    endTick s = { s with session := { s.session with frameTick := s.session.frameTick + 1 } } :=
  if_neg (by unfold Config.ticksPerFrame; omega)

theorem endIfStopped_cadenceOk (h : CadenceOk s) : CadenceOk (endIfStopped s) := by
  unfold endIfStopped
  split
  · exact cadenceOk_boundary rfl rfl
  · exact h

theorem afterEngine_cadenceOk (h : CadenceOk u) : CadenceOk (afterEngine u) := by
  have ho := afterUnits_outside u
  have htick := h.tick
  refine endIfStopped_cadenceOk ?_
  change CadenceOk (endTick (afterUnits u))
  rcases Nat.lt_or_ge u.session.frameTick 70223 with hlt | hge
  · rw [endTick_within (by rw [ho.session]; exact hlt), cadenceOk_iff]
    refine ⟨?_, ?_⟩
    · change (afterUnits u).session.frameTick + 1 < 70224
      rw [ho.session]
      omega
    · change (afterUnits u).audio.pairs.length = ceilDiv (((afterUnits u).session.frameTick + 1) *
        (afterUnits u).cfg.samplesPerFrame) 70224
      rw [afterUnits_length_pairs h, ho.session, ho.cfg]
  · rw [endTick_last (by rw [ho.session]; omega)]
    exact cadenceOk_boundary rfl rfl

/-- Every step keeps the cadence. -/
theorem step_cadenceOk (hs : CadenceOk s) (h : step s = .next t) : CadenceOk t :=
  step_keeps (P := CadenceOk) (fun _ => .congr rfl rfl rfl) (fun _ => .congr rfl rfl rfl)
    (fun v => .congr (engineView_frameTick v) (engineView_cfg v) (by rw [engineView_audio]))
    (fun _ _ _ _ ha => .congr (by rw [ha.session]) ha.cfg ha.pairs) (fun _ => afterEngine_cadenceOk) h hs

/-! ## The end of a frame -/

/-- A buffer handed out stays as it is while no pair is taken. -/
theorem bufferPairs_endFrame (s : State) : bufferPairs (endFrame s) = bufferPairs s := by
  change List.take s.cfg.samplesPerFrame ([] ++ bufferPairs s ++ List.replicate s.cfg.samplesPerFrame (0, 0)) = _
  rw [List.nil_append, List.take_append_of_le_length (length_bufferPairs s).ge, List.take_of_length_le (length_bufferPairs s).le]

theorem endIfStopped_endFrame (s : State) : endIfStopped (endFrame s) = endFrame s := by
  unfold endIfStopped
  split
  · change ({ endFrame s with audio := { s.audio with out := bufferPairs (endFrame s), pairs := [] } } : State) = _
    rw [bufferPairs_endFrame]
    rfl
  · rfl

/-- The pairs of the frame stand first in the buffer, if they fit. -/
theorem bufferPairs_prefix (h : s.audio.pairs.length ≤ s.cfg.samplesPerFrame) :
    ∃ l, bufferPairs s = s.audio.pairs.reverse ++ l := by
  refine ⟨List.take (s.cfg.samplesPerFrame - s.audio.pairs.length)
    (s.audio.out.drop s.audio.pairs.length ++ List.replicate s.cfg.samplesPerFrame (0, 0)), ?_⟩
  rw [bufferPairs, List.append_assoc, List.take_append, List.length_reverse, List.take_of_length_le (by simpa using h)]

/-- The last tick of a frame hands out a full buffer, those taken before first, and begins a new one. -/
theorem step_endsFrame (hs : CadenceOk s) (hrun : clockStopped s = false) (hlast : s.session.frameTick = 70223)
    (h : step s = .next t) : (∃ l, t.audio.out = s.audio.pairs.reverse ++ l) ∧ t.audio.out.length = s.cfg.samplesPerFrame ∧
    t.audio.pairs = [] ∧ t.session.frameTick = 0 := by
  rcases step_cases h with ⟨hstop, -⟩ | ⟨r, u, hr, -, ha, rfl⟩
  · rw [hrun] at hstop
    cases hstop
  rcases hr with ⟨rfl, -⟩ | ⟨-, hstop⟩
  · have hcfg : u.cfg = r.cfg := ha.cfg.trans (engineView_cfg r)
    have htick : u.session.frameTick = 70223 := by rw [ha.session, engineView_frameTick, hlast]
    have hpairs : u.audio.pairs = r.audio.pairs := ha.pairs.trans (by rw [engineView_audio])
    have hu : CadenceOk u := hs.congr (htick.trans hlast.symm) hcfg hpairs
    have ho := afterUnits_outside u
    have hend : afterEngine u = endFrame (afterUnits u) := by
      change endIfStopped (endTick (afterUnits u)) = _
      rw [endTick_last (by rw [ho.session, htick]), endIfStopped_endFrame]
    have hfull : (afterUnits u).audio.pairs.length ≤ (afterUnits u).cfg.samplesPerFrame := by
      rw [afterUnits_length_pairs hu, ho.cfg]
      exact ceilDiv_frame_le _ (by omega)
    obtain ⟨l, hl⟩ := bufferPairs_prefix hfull
    rw [hend]
    refine ⟨⟨List.replicate (pairsAt u.cfg.samplesPerFrame u.session.frameTick)
      (mixLeft (audioStep u), mixRight (audioStep u)) ++ l, ?_⟩, ?_, rfl, rfl⟩
    · change bufferPairs (afterUnits u) = _
      rw [hl, afterUnits, videoStep_audio, audioStep_pairs, List.reverse_append, List.reverse_replicate, hpairs,
        List.append_assoc]
    · change (bufferPairs (afterUnits u)).length = _
      rw [length_bufferPairs, ho.cfg, hcfg]
  · rw [hrun] at hstop
    cases hstop

/-! ## A call -/

theorem step_cfg (h : step s = .next t) : t.cfg = s.cfg := by
  have hafter : ∀ u : State, (afterEngine u).cfg = u.cfg := fun u => by
    have hend : (endIfStopped (endTick (afterUnits u))).cfg = (afterUnits u).cfg := by rw [endIfStopped_parts, endTick_parts]
    exact hend.trans (afterUnits_outside u).cfg
  exact step_keeps (P := fun v => v.cfg = s.cfg) (fun _ => id) (fun _ => id) (fun v hv => (engineView_cfg v).trans hv)
    (fun _ _ _ _ ha hv => ha.cfg.trans hv) (fun v hv => (hafter v).trans hv) h rfl

/-- Inside a frame the clock runs: the frame call in which it stops ends there (log 9). -/
def RunsInside (s : State) : Prop := s.session.frameTick < 70224 ∧ (clockStopped s = true → s.session.frameTick = 0)

/-- A step ends at a frame boundary or comes one tick nearer to it. -/
theorem step_frameTick (hs : RunsInside s) (h : step s = .next t) :
    t.session.frameTick = 0 ∨ (t.session.frameTick = s.session.frameTick + 1 ∧ RunsInside t) := by
  rcases step_cases h with ⟨hstop, rfl⟩ | ⟨r, u, hr, -, ha, rfl⟩
  · exact .inl (hs.2 hstop)
  · have hview : u.session.frameTick = s.session.frameTick := by
      rw [ha.session, engineView_frameTick]
      rcases hr with ⟨rfl, -⟩ | ⟨rfl, -⟩ <;> rfl
    have hstop : clockStopped (afterEngine u) = true → (afterEngine u).session.frameTick = 0 := endIfStopped_boundary
    have hlt := hs.1
    have htick := afterEngine_frameTick u
    rw [hview] at htick
    split_ifs at htick
    · exact .inl htick
    · exact .inl htick
    · exact .inr ⟨htick, by omega, hstop⟩

/-- A frame call comes to its boundary within the ticks of a frame (R358), with the parameters it began with. -/
theorem runFrame_boundary (n : Nat) (hs : RunsInside s) (hn : 70224 ≤ s.session.frameTick + n) :
    (runFrame n s).session.frameTick = 0 ∧ (runFrame n s).cfg = s.cfg := by
  induction n generalizing s with
  | zero => exact absurd hs.1 (by omega)
  | succ n ih =>
    obtain ⟨t, ht⟩ := stepAlwaysCompletes s
    simp only [runFrame, ht, atFrameBoundary, decide_eq_true_eq]
    split
    · next h0 => exact ⟨h0, step_cfg ht⟩
    · next h0 =>
      obtain ⟨hnext, ht'⟩ := (step_frameTick hs ht).resolve_left h0
      obtain ⟨hb, hcfg⟩ := ih ht' (by omega)
      exact ⟨hb, hcfg.trans (step_cfg ht)⟩

theorem frameCall_boundary (h : s.session.frameTick = 0) :
    ∃ t, frameCall s = (frameResult t, t) ∧ t.session.frameTick = 0 ∧ t.cfg = s.cfg :=
  ⟨_, rfl, runFrame_boundary _ ⟨by omega, fun _ => h⟩ (Nat.le_add_left 70224 _)⟩

/-! ## The two buffers -/

/-- A list of blocks of one length, byte by byte. -/
theorem getElem?_flatMap_blocks {α β : Type} {f : α → List β} {c : Nat} (hf : ∀ a, (f a).length = c) (l : List α) (i j : Nat)
    (hj : j < c) : (l.flatMap f)[c * i + j]? = l[i]?.bind fun a => (f a)[j]? := by
  induction l generalizing i with
  | nil => rfl
  | cons a l ih =>
    cases i with
    | zero =>
      have hlt : c * 0 + j < (f a).length := by rw [hf]; omega
      rw [List.flatMap_cons, List.getElem?_append_left hlt, Nat.mul_zero, Nat.zero_add]
      rfl
    | succ i =>
      have hle : (f a).length ≤ c * (i + 1) + j := by rw [hf, Nat.mul_succ]; omega
      have hsub : c * (i + 1) + j - c = c * i + j := by rw [Nat.mul_succ]; omega
      rw [List.flatMap_cons, List.getElem?_append_right hle, hf, hsub, ih]
      rfl

theorem length_flatMap_blocks {α β : Type} {f : α → List β} {c : Nat} (hf : ∀ a, (f a).length = c) (l : List α) :
    (l.flatMap f).length = c * l.length := by
  induction l with
  | nil => rfl
  | cons a l ih => rw [List.flatMap_cons, List.length_append, hf, ih, List.length_cons, Nat.mul_succ, Nat.add_comm]

theorem length_pixelBuffer (s : State) : (pixelBuffer s).length = 92160 := by
  rw [pixelBuffer, length_flatMap_blocks (c := 4) (fun _ => rfl), List.length_range]

theorem length_sampleBuffer (s : State) : (sampleBuffer s).length = 2 * s.cfg.samplesPerFrame := by
  rw [sampleBuffer, length_flatMap_blocks (c := 2) (fun _ => rfl), length_bufferPairs]

/-- The pixels stand row by row, four bytes R, G, B, A each (R347). -/
theorem getElem?_pixelBuffer (s : State) {x y j : Nat} (hx : x < 160) (hy : y < 144) (hj : j < 4) :
    (pixelBuffer s)[4 * (160 * y + x) + j]? = some ((framePixel s x y).extractLsb' (24 - 8 * j) 8) := by
  rw [pixelBuffer, getElem?_flatMap_blocks (c := 4) (fun _ => rfl) _ _ _ hj, List.getElem?_range (by omega), framePixel]
  interval_cases j <;> rfl

/-- The samples of the pair at a place of the buffer stand left before right (R356). -/
theorem getElem?_sampleBuffer {k : Nat} {p : Nat × Nat} (h : (bufferPairs s)[k]? = some p) :
    (sampleBuffer s)[2 * k]? = some (Config.sampleFormat p.1) ∧
    (sampleBuffer s)[2 * k + 1]? = some (Config.sampleFormat p.2) := by
  have hpair : ∀ j < 2, (sampleBuffer s)[2 * k + j]? = [Config.sampleFormat p.1, Config.sampleFormat p.2][j]? := fun j hj => by
    rw [sampleBuffer, getElem?_flatMap_blocks (c := 2) (fun _ => rfl) _ _ _ hj, h]
    rfl
  exact ⟨hpair 0 (by decide), hpair 1 (by decide)⟩

/-- Between two frames the buffer is the one handed out. -/
theorem getElem?_bufferPairs {k : Nat} {p : Nat × Nat} (hpairs : s.audio.pairs = []) (hk : k < s.cfg.samplesPerFrame)
    (hp : s.audio.out[k]? = some p) : (bufferPairs s)[k]? = some p := by
  obtain ⟨hlt, -⟩ := List.getElem?_eq_some_iff.1 hp
  rw [bufferPairs, hpairs, List.getElem?_take_of_lt hk]
  change (s.audio.out ++ _)[k]? = _
  rw [List.getElem?_append_left hlt, hp]

theorem frameResult_boundary (h : s.session.frameTick = 0) :
    frameResult s = some { pixels := pixelBuffer s, samples := sampleBuffer s } := if_pos (decide_eq_true h)

theorem frameResult_inside (h : s.session.frameTick ≠ 0) : frameResult s = none := if_neg (by simp [atFrameBoundary, h])

theorem frameResult_buffers {r : FrameResult} (h : frameResult s = some r) :
    r.pixels = pixelBuffer s ∧ r.samples = sampleBuffer s := by
  unfold frameResult at h
  split at h
  · simp only [← Option.some.inj h, and_self]
  · cases h

/-- Settles O55: the cadence step by step, the call by the ticks left of its frame, the buffers block by block. -/
theorem frameCalls : Obligations.FrameCalls := by
  refine ⟨fun s t => step_cadenceOk, fun s t => step_endsFrame, cadenceOk_boundary rfl rfl,
    fun n k hk => (Nat.div_lt_iff_lt_mul (by omega)).2 (by omega), fun s h0 => ?_, fun s => frameResult_inside,
    fun s r hr => ?_⟩
  · obtain ⟨t, hcall, hb, hcfg⟩ := frameCall_boundary h0
    obtain ⟨r, hr⟩ : ∃ r, frameResult t = some r := ⟨_, frameResult_boundary hb⟩
    obtain ⟨hpixels, hsamples⟩ := frameResult_buffers hr
    refine ⟨r, t, by rw [hcall, hr], hb, hr, ?_, ?_⟩
    · rw [hpixels, length_pixelBuffer]
    · rw [hsamples, length_sampleBuffer, hcfg]
  · obtain ⟨hpixels, hsamples⟩ := frameResult_buffers hr
    rw [hpixels, hsamples]
    exact ⟨fun x y j => getElem?_pixelBuffer s, fun hpairs k p hk hp => getElem?_sampleBuffer (getElem?_bufferPairs hpairs hk hp)⟩

end Sys2Proof.Machine
end

section
/-! The memory frame of every instruction (00_scope.md rule R9, 20_memory.md rules R64, R87): what accesses leave alone that store
to RAM only, closed under doing one after another, so that an instruction is the chain of its accesses. -/

namespace Sys2Proof.Machine

/-- From `s` to `t` bytes of RAM at the addresses `l` may have changed, the engine, and what a read of the clock leaves; nothing
else. -/
structure RamOnly (l : List Word) (s t : State) : Prop where
  rest : t = { s with cpu := t.cpu, mem := t.mem, rtc := t.rtc }
  mem : l = [] → t.mem = s.mem
  cell : ∀ k, (∀ a ∈ l, place s a ≠ .ram k) → t.cell k = s.cell k
  place : ∀ a, place t a = place s a

/-- Every address of `l` is a byte of RAM that the CPU reaches. -/
def Reachable (s : State) (l : List Word) : Prop := ∀ a ∈ l, cpuRestricted s a = false ∧ ∃ k, place s a = .ram k

/-- What a read of the clock leaves moves no bank. -/
theorem place_rtc (s : State) (x : Rtc) (a : Word) : place { s with rtc := x } a = place s a :=
  place_congr (s := s) (t := { s with rtc := x }) rfl rfl rfl rfl rfl a

namespace RamOnly

variable {l : List Word} {s t u : State}

/-! ## Chains and accesses -/

theorem refl (s : State) : RamOnly l s s := ⟨rfl, fun _ => rfl, fun _ _ => rfl, fun _ => rfl⟩

theorem trans (h : RamOnly l s t) (h' : RamOnly l t u) : RamOnly l s u where
  rest := by rw [h'.rest, h.rest]
  mem hl := (h'.mem hl).trans (h.mem hl)
  cell k hk := (h'.cell k fun a ha => (h.place a).symm ▸ hk a ha).trans (h.cell k hk)
  place a := (h'.place a).trans (h.place a)

theorem reachable (h : RamOnly l s t) (hl : Reachable s l) : Reachable t l := by
  intro a ha
  obtain ⟨hr, k, hk⟩ := hl a ha
  have hdma : t.dma = s.dma := by rw [h.rest]
  exact ⟨by rwa [cpuRestricted, hdma], k, (h.place a).trans hk⟩

theorem setCpu (c : Cpu) : RamOnly l s (s.setCpu c) := ⟨rfl, fun _ => rfl, fun _ _ => rfl, fun _ => place_setCpu s c _⟩

theorem cpuObserve (a : Word) : RamOnly l s (cpuObserve s a) := by
  have he := cpuObserve_eq s a
  have hmem : (Machine.cpuObserve s a).mem = s.mem := by rw [he]
  refine ⟨by rw [he], fun _ => hmem, fun k _ => ?_, fun b => ?_⟩
  · rw [State.cell, hmem]
    rfl
  · rw [he]
    exact place_rtc s _ b

/-- A store to an address of `l`. -/
theorem cpuWrite (hl : Reachable s l) {a : Word} (ha : a ∈ l) (v : Byte) : RamOnly l s (cpuWrite a v s) := by
  obtain ⟨hr, k, hk⟩ := hl a ha
  rw [cpuWrite_free hr, busWrite_ram hk]
  exact ⟨rfl, fun h => absurd ha (h ▸ List.not_mem_nil), fun k' hk' => State.cell_setCell_ne s v fun e => hk' a ha (e ▸ hk),
    place_setCell_ram hk v⟩

/-! ## Shared operations -/

theorem setReg (r : Reg8) (v : Byte) : RamOnly l s (s.setReg r v) := by cases r <;> exact setCpu _

theorem setPair (p : Pair) (v : Word) : RamOnly l s (s.setPair p v) := by cases p <;> exact setCpu _

theorem setStackPair (q : StackPair) (v : Word) : RamOnly l s (s.setStackPair q v) := by cases q <;> exact setCpu _

theorem loadReg (r : Reg8) (a : Word) : RamOnly l s (loadReg r a s) := (cpuObserve a).trans (setReg _ _)

theorem modifyReg (f : Byte → Byte × Flags) (r : Reg8) : RamOnly l s (modifyReg f r s) := (setReg _ _).trans (setCpu _)

theorem aluHl (f : Byte → Byte → Byte × Flags) : RamOnly l s (aluHl f s) := by
  rw [aluHl_eq]
  exact (cpuObserve _).trans (setCpu _)

/-- A read of the byte at `HL`, then a store there. -/
theorem rewriteHl (hl : Reachable s l) (ha : s.hl ∈ l) (v : Byte) :
    RamOnly l s (Machine.cpuWrite s.hl v (Machine.cpuObserve s s.hl)) :=
  have hread : RamOnly l s (Machine.cpuObserve s s.hl) := cpuObserve _
  hread.trans (cpuWrite (hread.reachable hl) ha v)

theorem modifyHl (hl : Reachable s l) (ha : s.hl ∈ l) (f : Byte → Byte × Flags) : RamOnly l s (modifyHl f s) := by
  rw [modifyHl_eq]
  exact (rewriteHl hl ha _).trans (setCpu _)

theorem pushed (hl : Reachable s l) (hhi : s.cpu.sp - 1 ∈ l) (hlo : s.cpu.sp - 2 ∈ l) (v : Word) : RamOnly l s (s.pushed v) := by
  have hfirst : RamOnly l s (Machine.cpuWrite (s.cpu.sp - 1) (v.extractLsb' 8 8) s) := cpuWrite hl hhi _
  exact (hfirst.trans (cpuWrite (hfirst.reachable hl) hlo _)).trans (setCpu _)

theorem pop16 : RamOnly l s (pop16 s).2 := by
  rw [pop16_eq]
  exact ((cpuObserve _).trans (cpuObserve _)).trans (setCpu _)

theorem callTo (hl : Reachable s (pushes s)) (target : Word) : RamOnly (pushes s) s (callTo target s) := by
  rw [callTo_eq]
  exact (pushed hl List.mem_cons_self (.tail _ List.mem_cons_self) _).trans (setCpu _)

theorem popPc : RamOnly l s (popPc s) := pop16.trans (setCpu _)

theorem finish {n : Nat} (h : RamOnly l s t) (he : finish n t = .next u) : RamOnly l s u := by
  rw [finish_inj he]
  exact h.trans (setCpu _)

theorem ite {b : Bool} {p q : Result} (hp : b = true → p = .next t → RamOnly l s t) (hq : q = .next t → RamOnly l s t)
    (h : (if b then p else q) = .next t) : RamOnly l s t := by
  cases b
  · exact hq h
  · exact hp rfl h

end RamOnly

/-! ## The instructions -/

variable {s t : State}

/-- An instruction other than an extended opcode's first byte or an interrupt entry stores to the addresses of the table. -/
theorem exec_ramOnly_primary (i : Instr) (hi : ∀ o, i ≠ .cbPrefix o) (hint : isInterruptEntry i = false)
    (hl : Reachable s ((writes i).stores s)) (h : exec i s = .next t) : RamOnly ((writes i).stores s) s t := by
  have first : ∀ {a : Word} {l : List Word}, a ∈ a :: l := List.mem_cons_self
  cases i
  case cbPrefix o => exact absurd rfl (hi o)
  case intVblank | intStat | intTimer | intSerial | intJoypad => cases hint
  case ldRR | ldRN8 | resBR | setBR => exact .finish (.setReg _ _) h
  case ldRHl | ldABc | ldADe | ldAN16 | ldhAC | ldhAN8 => exact .finish (.loadReg _ _) h
  case ldHlR | ldHlN8 | ldBcA | ldDeA | ldN16A | ldhCA | ldhN8A => exact .finish (.cpuWrite hl first _) h
  case ldAHld | ldAHli => exact .finish ((RamOnly.loadReg _ _).trans (.setCpu _)) h
  case ldHldA | ldHliA => exact .finish ((RamOnly.cpuWrite hl first _).trans (.setCpu _)) h
  case ldRrN16 | incRr | decRr => exact .finish (.setPair _ _) h
  case ldN16Sp n =>
    have hlow := RamOnly.cpuWrite hl first (loByte s.cpu.sp)
    exact .finish (hlow.trans (.cpuWrite (hlow.reachable hl) (.tail _ first) _)) h
  case pushRs => exact .finish (push16_eq _ s ▸ .pushed hl first (.tail _ first) _) h
  case popRs q => exact .finish (RamOnly.pop16.trans (.setStackPair _ _)) h
  case popAf => exact .finish (RamOnly.pop16.trans (.setStackPair _ _)) h
  case addAHl | adcAHl | subAHl | sbcAHl | andAHl | xorAHl | orAHl => exact .finish (.aluHl _) h
  case cpAHl | bitBHl => exact .finish ((RamOnly.cpuObserve _).trans (.setCpu _)) h
  case incHl | decHl => exact .finish (.modifyHl hl first _) h
  case rlcHl | rrcHl | rlHl | rrHl | slaHl | sraHl | swapHl | srlHl => exact .finish (.modifyHl hl first _) h
  case incR | decR => exact .finish (.modifyReg _ _) h
  case rlcR | rrcR | rlR | rrR | slaR | sraR | swapR | srlR => exact .finish (.modifyReg _ _) h
  case resBHl b =>
    rw [exec_resBHl] at h
    exact .finish (.rewriteHl hl first _) h
  case setBHl b =>
    rw [exec_setBHl] at h
    exact .finish (.rewriteHl hl first _) h
  case jpCcN16 | jrCcE8 => exact .ite (fun _ => .finish (.setCpu _)) (.finish (.refl _)) h
  case callN16 | rstT => exact .finish (.callTo hl _) h
  case callCcN16 cc n =>
    refine .ite (fun htaken h => ?_) (.finish (.refl _)) h
    have hstores : (writes (.callCcN16 cc n)).stores s = pushes s := if_pos htaken
    rw [hstores] at hl ⊢
    exact .finish (.callTo hl _) h
  case ret => exact .finish .popPc h
  case retCc => exact .ite (fun _ => .finish .popPc) (.finish (.refl _)) h
  case reti => exact .finish (RamOnly.popPc.trans (.setCpu _)) h
  case nop => exact .finish (.refl _) h
  case illegalD3 | illegalDB | illegalDD | illegalE3 | illegalE4 | illegalEB | illegalEC | illegalED | illegalF4 | illegalFC
    | illegalFD => exact .finish (.refl _) h
  -- a write of the engine alone
  all_goals exact .finish (.setCpu _) h

/-! ## What a read gives afterwards -/

/-- The key of a byte of RAM is no key of an array outside the RAM windows. -/
theorem ram_key_high {a : Word} {k : Nat} (h : place s a = .ram k) : 0x8000 ≤ k % 0x10000 := by
  rcases ram_key_cases h with ⟨bank, n, hn, hn', rfl⟩ | ⟨hk, hk'⟩ <;> omega

theorem extOf_ne_rom (s : State) (n : Nat) (x : Option Nat) : extOf s n ≠ .rom x := by
  unfold extOf
  split <;> nofun

/-- Above the ROM windows there is no place of ROM. -/
theorem lt_of_place_rom {a : Word} {x : Option Nat} (h : place s a = .rom x) : a.toNat < 0x8000 := by
  by_contra h1
  have work : ∀ b : Word, 0xC000 ≤ b.toNat → b.toNat < 0xE000 → place s b ≠ .rom x := fun b hb hb' hx => by
    obtain ⟨bank, hp⟩ := place_wram (s := s) hb hb'
    cases hp.symm.trans hx
  rcases Nat.lt_or_ge a.toNat 0xA000 with h2 | h2
  · cases (place_vram (Nat.not_lt.1 h1) h2).symm.trans h
  rcases Nat.lt_or_ge a.toNat 0xC000 with h3 | h3
  · exact extOf_ne_rom s _ x ((place_ext h2 h3).symm.trans h)
  rcases Nat.lt_or_ge a.toNat 0xE000 with h4 | h4
  · exact work a h3 h4 h
  rcases Nat.lt_or_ge a.toNat 0xFE00 with h5 | h5
  · have hw := toNat_sub_echo h4
    exact work (a - 0x2000) (by omega) (by omega) ((place_echo h4 h5).symm.trans h)
  rcases Nat.lt_or_ge a.toNat 0xFEA0 with h6 | h6
  · cases (place_oam h5 h6).symm.trans h
  rcases Nat.lt_or_ge a.toNat 0xFF00 with h7 | h7
  · cases (place_gap h6 h7).symm.trans h
  rcases Nat.lt_or_ge a.toNat 0xFF80 with h8 | h8
  · have hp := (place_block h7 h8).symm.trans h
    cases hr : ioRegAt s.cfg.cgb (a.toNat - 0xFF00) <;> rw [hr] at hp <;> cases hp
  rcases Nat.lt_or_ge a.toNat 0xFFFF with h9 | h9
  · cases (place_hram h8 h9).symm.trans h
  · cases (place_ie (s := s) (a := a) (by omega)).symm.trans h

theorem rom_key_low {a : Word} {k : Nat} (h : place s a = .rom (some k)) : k % 0x10000 < 0x8000 := by
  have ha := lt_of_place_rom h
  rw [place_rom ha, Place.rom.injEq] at h
  by_cases hb : s.bootMapped = true ∧ inBootOverlay s.cfg.boot a.toNat = true
  · rw [romOrBoot_boot hb.1 hb.2, bootKey, Option.some.injEq] at h
    omega
  · rw [romOrBoot_cartridge hb, romKey] at h
    split_ifs at h
    rw [Option.some.injEq] at h
    omega

/-- What a read of a register depends on: the cells of the block and of palette RAM, and the devices. -/
theorem ioRead_congr (hrest : t = { s with cpu := t.cpu, mem := t.mem, rtc := t.rtc }) (hio : ∀ r, t.io r = s.io r)
    (hpal : ∀ k, k % 0x10000 < 0x8000 → t.cell k = s.cell k) (r : IoReg) : ioRead t r = ioRead s r := by
  have hor : ∀ r, t.readOr r = s.readOr r := fun r => by rw [hrest]; rfl
  have hpalette : ∀ v, t.cell (bgPalKey (palIndex v)) = s.cell (bgPalKey (palIndex v)) ∧
      t.cell (objPalKey (palIndex v)) = s.cell (objPalKey (palIndex v)) := fun v => by
    constructor <;> refine hpal _ ?_ <;> simp only [bgPalKey, objPalKey, palIndex] <;> omega
  cases r
  case p1 | div | intf | ly | hdma5 =>
    rw [hrest]
    rfl
  case nr52 | hdma1 | hdma2 | hdma3 | hdma4 =>
    simp only [ioRead, hor]
    rw [hrest]
  case bcpd | ocpd => simp only [ioRead, hio, hor, hpalette]
  all_goals simp only [ioRead, hio, hor]

namespace RamOnly

/-- An address whose byte is none of those stored, and no clock register, reads as before. -/
theorem peek {l : List Word} {a : Word} (h : RamOnly l s t) (hplain : PlainRead s a)
    (hne : ∀ b ∈ l, Machine.place s a ≠ Machine.place s b) : peek t a = peek s a := by
  have hlow : ∀ k, k % 0x10000 < 0x8000 → t.cell k = s.cell k := fun k hk =>
    h.cell k fun b _ e => Nat.not_lt.2 (ram_key_high e) hk
  have hio : ∀ r, t.io r = s.io r := fun r => h.cell _ fun b _ e => ram_key_ne_ioKey e r rfl
  unfold Machine.peek
  rw [h.place]
  cases hp : Machine.place s a with
  | rom key =>
    cases key with
    | none => rfl
    | some k => exact hlow k (rom_key_low hp)
  | ram k => exact h.cell k fun b hb e => hne b hb (hp.trans e.symm)
  | clock r => exact absurd hp (hplain r)
  | io r => exact ioRead_congr h.rest hio hlow r
  | ie => change t.ie = s.ie; rw [h.rest]
  | denied => rfl
  | absent => rfl

end RamOnly

/-! ## The statement -/

/-- The state with other request bits. -/
def State.withIf (s : State) (x : BitVec 5) : State := { s with iflag := x }

@[simp] theorem place_withIf (s : State) (x : BitVec 5) (a : Word) : place (s.withIf x) a = place s a :=
  place_congr (s := s) (t := s.withIf x) rfl rfl rfl rfl rfl a

theorem peek_withIf {a : Word} (x : BitVec 5) (h : place s a ≠ .io .intf) : peek (s.withIf x) a = peek s a := by
  unfold peek
  rw [place_withIf]
  cases hp : place s a with
  | io r =>
    cases r
    case intf => exact absurd hp h
    all_goals rfl
  | clock r => cases r <;> rfl
  | rom key => cases key <;> rfl
  | _ => rfl

/-- Every instruction stores to the addresses of the table alone, an interrupt entry after it has cleared a request bit. -/
theorem exec_ramOnly {i : Instr} (hl : Reachable s (storedTo i s)) (h : exec i s = .next t) :
    ∃ x, RamOnly (storedTo i s) (s.withIf x) t ∧ (isInterruptEntry i = false → x = s.iflag) := by
  have hentry : ∀ q, Reachable s (pushes s) → finish 20 (dispatchInterrupt q s) = .next t →
      RamOnly (pushes s) (s.withIf (s.iflag &&& ~~~q.mask)) t := by
    intro q hpush he
    let u := (s.withIf (s.iflag &&& ~~~q.mask)).setCpu { s.cpu with ime := false, eiDelay := 0 }
    have hstart : RamOnly (pushes s) (s.withIf (s.iflag &&& ~~~q.mask)) u := .setCpu _
    have hu : Reachable u (pushes s) := hstart.reachable fun a ha => ⟨(hpush a ha).1, (hpush a ha).2.imp fun k hk =>
      (place_withIf s _ a).trans hk⟩
    exact .finish (hstart.trans (.callTo hu q.vector)) he
  obtain ⟨hexec, hne⟩ := exec_selected i s
  cases hint : isInterruptEntry i
  · have hint' : isInterruptEntry (selected i) = false := selected_controls.2.2.2.2.trans hint
    exact ⟨s.iflag, exec_ramOnly_primary (selected i) hne hint' hl (hexec.trans h), fun _ => rfl⟩
  · cases i
    case intVblank | intStat | intTimer | intSerial | intJoypad => exact ⟨_, hentry _ hl h, nofun⟩
    all_goals cases hint

/-- Settles O26: the stores reach RAM alone, so every other place reads the same cells and the same devices. -/
theorem memoryFrame : Obligations.MemoryFrame := by
  intro i s t h hl
  obtain ⟨x, hr, hx⟩ := exec_ramOnly hl h
  have hrest := hr.rest
  have hpeek : ∀ a, PlainRead s a → (isInterruptEntry i = true → place s a ≠ .io .intf) →
      (∀ b ∈ storedTo i s, place s a ≠ place s b) → peek t a = peek s a := by
    intro a hplain hif hne
    simp only [PlainRead, ← place_withIf s x] at hplain hne
    rw [hr.peek hplain hne]
    cases hint : isInterruptEntry i
    · rw [hx hint]
      rfl
    · exact peek_withIf x (hif hint)
  refine ⟨hr.mem, fun hint => ?_, ?_, ?_, ?_, ?_, ?_, ?_, ?_, ?_, ?_, hpeek⟩
  · rw [hrest, ← hx hint]
    rfl
  all_goals
    rw [hrest]
    rfl

end Sys2Proof.Machine
end

section
/-! The bank controller (20_memory.md rules R95 to R104): control writes and ROM resolution, external RAM, and the real-time
clock. -/

namespace Sys2Proof.Machine

variable {s t : State}

/-! ## Construction -/

/-- What construction answers when it refuses nothing. -/
theorem construct_ok {l : Launch} (h : construct l = .ok s) : ∃ k nr boot, bootOf l.boot = .ok boot ∧
    s = resetWith (launchParams l k nr boot) { l.init with mem := launchMemory l } := by
  unfold construct at h
  split at h
  · cases h
  · cases h
  · cases h
  · cases h
  · next k nr boot _ _ _ hboot => exact ⟨k, nr, boot, hboot, (Except.ok.inj h).symm⟩

/-! ## Control writes -/

theorem isRamEnable_eq : ∀ v : Byte, isRamEnable v = decide (v.toNat % 16 = 0xA) := by decide

theorem forceOne_low5 : ∀ v : Byte, forceOne ((v &&& 0x1F).zeroExtend 9) =
    if v.toNat % 32 = 0 then 1 else BitVec.ofNat 9 (v.toNat % 32) := by decide

theorem forceOne_low7 : ∀ v : Byte, forceOne ((v &&& 0x7F).zeroExtend 9) =
    if v.toNat % 128 = 0 then 1 else BitVec.ofNat 9 (v.toNat % 128) := by decide

theorem low2_eq : ∀ v : Byte, v.extractLsb' 0 2 = BitVec.ofNat 2 v.toNat := by decide

theorem bit_zero_eq : ∀ v : Byte, bit v 0 = decide (v.toNat % 2 = 1) := by decide

theorem low4_eq : ∀ v : Byte, v &&& 0x0F = BitVec.ofNat 8 (v.toNat % 16) := by decide

/-- The low byte of MBC5's 9-bit bank number. -/
theorem romBank_low (b : BitVec 9) (v : Byte) :
    b.extractLsb' 8 1 ++ v = BitVec.ofNat 9 (b.toNat / 256 * 256 + v.toNat) := by
  have hb := b.isLt
  have hv := v.isLt
  refine BitVec.eq_of_toNat_eq ?_
  rw [toNat_append_eq, toNat_field, BitVec.toNat_ofNat]
  omega

/-- Its high bit. -/
theorem romBank_high (b : BitVec 9) (v : Byte) :
    v.extractLsb' 0 1 ++ b.extractLsb' 0 8 = BitVec.ofNat 9 (v.toNat % 2 * 256 + b.toNat % 256) := by
  refine BitVec.eq_of_toNat_eq ?_
  rw [toNat_append_eq, toNat_field, toNat_field, BitVec.toNat_ofNat]
  omega

theorem busWrite_rom {a : Word} (h : a.toNat ≤ 0x7FFF) (v : Byte) : busWrite a v s = mbcWrite a.toNat v s := by
  unfold busWrite
  rw [place_rom (by omega)]

/-- Without banking the address is the offset (R96). -/
theorem romOffset_noBanking (h : s.cfg.mbc = .noBanking) (n : Nat) : romOffset s n = n := by
  simp only [romOffset, romBankHigh, h]
  split <;> omega

/-- With a bank controller the selected bank is reduced modulo the count (R101). -/
theorem romOffset_banked (h : s.cfg.mbc ≠ .noBanking) (n : Nat) : romOffset s n =
    if n ≤ 0x3FFF then n else selectedRomBank s % s.cfg.romBanks * 0x4000 + (n - 0x4000) := by
  have hbank : romBankHigh s = selectedRomBank s % s.cfg.romBanks := by
    unfold romBankHigh
    split
    · next hk => exact absurd hk h
    · rfl
  have hlow : n < 0x4000 ↔ n ≤ 0x3FFF := Nat.lt_succ_iff
  simp only [romOffset, hbank, hlow]

/-- Settles O41: range by range of each variant's control writes, and the resolution of its selected bank. -/
theorem bankSwitching : Obligations.BankSwitching := by
  refine ⟨fun l s h => ?_, ?_⟩
  · obtain ⟨k, nr, boot, -, rfl⟩ := construct_ok h
    exact ⟨rfl, rfl⟩
  intro s a v ha n t only high enable
  have ht : t = mbcWrite n v s := busWrite_rom ha v
  refine ⟨fun hk => ⟨?_, romOffset_noBanking hk n⟩, fun hk => ?_, fun rtc hk => ?_, fun hk => ?_⟩
  · rw [ht, mbcWrite, hk]
  · have hw : t = { s with mbc := mbc1Write n v s.mbc } := by rw [ht, mbcWrite, hk]
    have hhigh := romOffset_banked (s := s) (by rw [hk]; nofun) n
    rw [selectedRomBank, hk] at hhigh
    refine ⟨fun h => ?_, fun h h' => ?_, fun h h' => ?_, fun h => ?_, hhigh⟩ <;> refine hw.trans ?_ <;>
      simp (disch := omega) only [mbc1Write, if_pos, if_neg, isRamEnable_eq, forceOne_low5, low2_eq, bit_zero_eq]
  · have hw : t = { s with mbc := mbc3Write n v s.mbc } := by rw [ht, mbcWrite, hk]
    have hhigh := romOffset_banked (s := s) (by rw [hk]; nofun) n
    rw [selectedRomBank, hk] at hhigh
    refine ⟨fun h => ?_, fun h h' => ?_, fun h h' => ?_, fun h => ?_, hhigh⟩ <;> refine hw.trans ?_ <;>
      simp (disch := omega) only [mbc3Write, if_pos, if_neg, isRamEnable_eq, forceOne_low7]
  · have hw : t = { s with mbc := mbc5Write n v s.mbc } := by rw [ht, mbcWrite, hk]
    have hhigh := romOffset_banked (s := s) (by rw [hk]; nofun) n
    rw [selectedRomBank, hk] at hhigh
    refine ⟨fun h => ?_, fun h h' => ?_, fun h h' => ?_, fun h h' => ?_, fun h => ?_, hhigh⟩ <;> refine hw.trans ?_ <;>
      simp (disch := omega) only [mbc5Write, if_pos, if_neg, isRamEnable_eq, romBank_low, romBank_high, low4_eq]

/-! ## External RAM -/

/-- The select values of the clock registers (R98). -/
theorem rtcRegOf_eq_none_iff : ∀ sel : Byte, rtcRegOf sel = none ↔ ¬(0x08 ≤ sel.toNat ∧ sel.toNat ≤ 0x0C) := by decide

/-- The select value of a clock register. -/
def RtcReg.select : RtcReg → Nat
  | .seconds => 0x08
  | .minutes => 0x09
  | .hours => 0x0A
  | .dayLow => 0x0B
  | .dayHigh => 0x0C

theorem select_of_rtcRegOf : ∀ (sel : Byte) (r : RtcReg), rtcRegOf sel = some r → sel.toNat = r.select := by
  intro sel r
  cases r <;> revert sel <;> decide

/-- A latch that is set gives the requested bank or the selected clock register (R96 to R99). -/
theorem extPlace_bank (hen : s.mbc.ramEn = true) (hclk : ¬clockSelected s) :
    extPlace s = ramBankOrDenied s (requestedRamBank s) := by
  unfold extPlace requestedRamBank
  rw [if_pos hen]
  cases hk : s.cfg.mbc with
  | mbc3 rtc =>
    simp only
    split
    · next r hr =>
      have hrange : 0x08 ≤ s.mbc.ramSel.toNat ∧ s.mbc.ramSel.toNat ≤ 0x0C := by
        by_contra hout
        cases ((rtcRegOf_eq_none_iff _).2 hout).symm.trans hr
      have hrtc : rtc = false := Bool.eq_false_iff.2 fun h => hclk ⟨by rw [hk, h], hrange⟩
      rw [hrtc]
      rfl
    · rfl
  | _ => rfl

theorem extPlace_clock (hen : s.mbc.ramEn = true) (hclk : clockSelected s) :
    ∃ r, extPlace s = .clock r ∧ s.mbc.ramSel.toNat = r.select := by
  obtain ⟨hk, hrange⟩ := hclk
  cases hr : rtcRegOf s.mbc.ramSel with
  | none => exact absurd hrange ((rtcRegOf_eq_none_iff _).1 hr)
  | some r =>
    refine ⟨r, ?_, select_of_rtcRegOf _ r hr⟩
    simp only [extPlace, hen, hk, hr, if_true]

/-- Settles O42: the window's place is denied, a byte of the requested bank, or a clock register. -/
theorem externalRam : Obligations.ExternalRam := by
  intro s a h h' bank
  have hplace : place s a = extOf s a.toNat := place_ext h (by omega)
  refine ⟨fun hen => ?_, fun hen hclk hb => ?_, fun hen hclk hb => ?_, fun hen hclk => ?_⟩
  · refine nothingAt_of_place (.inr ?_)
    simp only [hplace, extOf, extPlace, hen, Bool.false_eq_true, if_false]
  · refine nothingAt_of_place (.inr ?_)
    simp only [hplace, extOf, extPlace_bank hen hclk, ramBankOrDenied]
    rw [if_neg (Nat.not_lt.2 hb)]
  · refine storedAt_of_ram ?_
    simp only [hplace, extOf, extPlace_bank hen hclk, ramBankOrDenied]
    rw [if_pos hb]
  · obtain ⟨r, hr, hsel⟩ := extPlace_clock hen hclk
    refine ⟨r, by simp only [hplace, extOf, hr], hsel.trans ?_⟩
    cases r <;> rfl

/-! ## The real-time clock -/

theorem observe_plain {a : Word} (h : PlainRead s a) : observe s a = s := by
  unfold observe
  split
  · next r hr => exact absurd hr (h r)
  · rfl

theorem cpuObserve_plain {a : Word} (h : PlainRead s a) : cpuObserve s a = s := by
  rw [cpuObserve, observe_plain h, ite_self]

/-- The host's time plus the stored offset (R103). -/
theorem rtcNow_eq (s : State) : rtcNow s = (Config.wallClock s.rtc.draws : Int) + s.rtc.offset := Int.add_assoc _ _ _

/-- The two high bits of day-high that the rules name (R103, R104). -/
theorem rtcDayHigh_bits (s : State) : let t := rtcNow s
    (rtcValue s .dayHigh).getLsbD 7 = rtcOverflowAt s t ∧
    ((rtcValue s .dayHigh).getLsbD 0 = true ↔ t / 86400 / 256 % 2 = 1) := by
  intro t
  have hbit : (BitVec.ofInt 1 (t / 86400 / 256)).getLsbD 0 = decide (t / 86400 / 256 % 2 = 1) := by
    have hv : ((BitVec.ofInt 1 (t / 86400 / 256)).toNat : Int) = t / 86400 / 256 % 2 := by
      rw [BitVec.toNat_ofInt, Int.toNat_of_nonneg (Int.emod_nonneg _ (by decide))]
      rfl
    rw [BitVec.getLsbD, Nat.testBit_zero]
    exact decide_eq_decide.2 (by omega)
  have hvalue : rtcValue s .dayHigh = BitVec.ofBool (rtcOverflowAt s t) ++ Config.rtcDayHighRest s.rtc.draws ++
    BitVec.ofInt 1 (t / 86400 / 256) := rfl
  rw [hvalue]
  constructor
  · rw [BitVec.getLsbD_append, if_neg (by decide), BitVec.getLsbD_append, if_neg (by decide)]
    cases rtcOverflowAt s t <;> rfl
  · rw [BitVec.getLsbD_append, if_pos (by decide), hbit, decide_eq_true_iff]

/-- What the clock reads as at time `t`, where a value fits its field. -/
theorem rtcValue_numbers (s : State) : let t := rtcNow s
    ((rtcValue s .seconds).toNat : Int) = t % 60 ∧ ((rtcValue s .minutes).toNat : Int) = t / 60 % 60 ∧
    ((rtcValue s .hours).toNat : Int) = t / 3600 % 24 ∧ ((rtcValue s .dayLow).toNat : Int) = t / 86400 % 256 := by
  intro t
  simp only [rtcValue, toNat_ofInt_byte, rtcDays]
  omega

/-- The offset a write stores makes the time that of `rtcTimeAfter` (R103). -/
theorem rtcWrite_offset (r : RtcReg) (v : Byte) (s : State) :
    (Config.wallClock s.rtc.draws : Int) + (rtcWrite r v s).rtc.offset = rtcTimeAfter r v (rtcNow s) s.rtc.draws := by
  simp only [rtcWrite, Rtc.offset]
  omega

theorem peek_clock {a : Word} {r : RtcReg} (h : place s a = .clock r) : peek s a = rtcValue s r := by unfold peek; rw [h]

theorem observe_clock {a : Word} {r : RtcReg} (h : place s a = .clock r) : observe s a = rtcObserve s := by
  unfold observe; rw [h]

theorem busWrite_clock {a : Word} {r : RtcReg} (h : place s a = .clock r) (v : Byte) : busWrite a v s = rtcWrite r v s := by
  unfold busWrite; rw [h]

/-- Settles O43: the fields of the host's time plus the offset; a write changes one field of it. -/
theorem realTimeClock : Obligations.RealTimeClock := by
  refine ⟨fun s a h => ⟨observe_plain h, cpuObserve_plain h⟩, ?_⟩
  intro s a r hp now t seen
  have ht : rtcNow s = t := rtcNow_eq s
  have hseen : rtcOverflowAt s t = seen := rfl
  obtain ⟨hsec, hmin, hhour, hday⟩ := rtcValue_numbers s
  obtain ⟨hover, hhigh⟩ := rtcDayHigh_bits s
  rw [ht] at hsec hmin hhour hday hover hhigh
  rw [peek_clock hp, observe_clock hp]
  refine ⟨by rw [rtcObserve, ht, hseen], fun hr => hr ▸ hsec, fun hr => hr ▸ hmin, fun hr => hr ▸ hhour, fun hr => hr ▸ hday,
    fun hr => hr ▸ ⟨hover, hhigh⟩, ?_⟩
  intro v s' t'
  have hs' : s' = rtcWrite r v s := busWrite_clock hp v
  have htime : t' = rtcTimeAfter r v t s.rtc.draws := by
    rw [← ht, ← rtcWrite_offset, ← hs']
  have hv := v.isLt
  refine ⟨by rw [hs']; rfl, by rw [hs']; rfl, fun hr => ?_, fun hr hlt => ?_, fun hr hlt => ?_, fun hr hlt => ?_,
    fun hr => ?_, fun hr => ?_⟩
  · rw [hs', ← hseen, ← ht]
    cases r
    case dayHigh => exact absurd rfl hr
    all_goals rfl
  · subst hr
    simp only [rtcTimeAfter, if_pos hlt] at htime
    omega
  · subst hr
    simp only [rtcTimeAfter, if_pos hlt] at htime
    omega
  · subst hr
    simp only [rtcTimeAfter, if_pos hlt] at htime
    omega
  · subst hr
    simp only [rtcTimeAfter, rtcDays] at htime
    omega
  · subst hr
    refine ⟨by rw [hs']; rfl, ?_⟩
    simp only [rtcTimeAfter, rtcDays, bit_zero_eq, decide_eq_true_eq] at htime
    split at htime <;> omega

end Sys2Proof.Machine
end

section
/-! The joypad port (60_exceptions.md rule R332): the lines bit by bit, and the bus step that compares them with the last ones. -/

namespace Sys2Proof.Machine

variable {s : State} {a : Word}

theorem peek_register {r : IoReg} (h : place s a = .io r) : peek s a = ioRead s r := by unfold peek; rw [h]

/-- A line of a group reads 0 for its pressed button. -/
theorem getLsbD_groupLines : ∀ (b : Fin 4 → Bool) (i : Fin 4), (groupLines (b 0) (b 1) (b 2) (b 3)).getLsbD i = !b i := by
  decide

theorem getLsbD_directionLines (s : State) (i : Fin 4) :
    (directionLines s).getLsbD i = !buttonIn s.joy.mask (i.castLE (by decide)) :=
  getLsbD_groupLines (fun i => buttonIn s.joy.mask (i.castLE (by decide))) i

theorem getLsbD_actionLines (s : State) (i : Fin 4) : (actionLines s).getLsbD i = !buttonIn s.joy.mask (i.natAdd 4) :=
  getLsbD_groupLines (fun i => buttonIn s.joy.mask (i.natAdd 4)) i

/-- Lines of a group that is not selected read 1. -/
theorem getLsbD_unselected (b : Bool) (x : BitVec 4) (i : Fin 4) :
    (if b then 0xF else x).getLsbD i = (b || x.getLsbD i) := by
  cases b
  · rfl
  · show (0xF : BitVec 4).getLsbD i = true
    revert i; decide

/-- A line reads 0 exactly for a pressed button of a selected group. -/
theorem joypadLines_low (s : State) (i : Fin 4) : (joypadLines s).getLsbD i = false ↔
    (s.joy.select.getLsbD 0 = false ∧ buttonIn s.joy.mask (i.castLE (by decide)) = true) ∨
    (s.joy.select.getLsbD 1 = false ∧ buttonIn s.joy.mask (i.natAdd 4) = true) := by
  simp only [joypadLines, BitVec.getLsbD_and, getLsbD_unselected, getLsbD_directionLines, getLsbD_actionLines,
    Bool.and_eq_false_iff, Bool.or_eq_false_iff, Bool.not_eq_false']

theorem readP1_lines (s : State) (i : Fin 4) : (readP1 s).getLsbD i = (joypadLines s).getLsbD i := by
  rw [readP1, BitVec.getLsbD_append, if_pos i.isLt]

theorem extractLsb'_readP1 (s : State) : (readP1 s).extractLsb' 0 4 = joypadLines s := by
  unfold readP1
  generalize joypadLines s = x
  generalize s.joy.select = y
  revert x y
  decide

/-- The bits above the lines: the selection, then two ones. -/
theorem readP1_high (x : BitVec 4) (y : BitVec 2) :
    (∀ i < 2, ((3 : BitVec 2) ++ y ++ x).getLsbD (4 + i) = y.getLsbD i) ∧
    ((3 : BitVec 2) ++ y ++ x).getLsbD 6 = true ∧ ((3 : BitVec 2) ++ y ++ x).getLsbD 7 = true := by
  revert x y
  decide

/-- No line falls exactly when every line that was 1 still is. -/
theorem fallen_eq_zero : ∀ x y : BitVec 4, x &&& ~~~y = 0 ↔ ∀ i : Fin 4, x.getLsbD i = true → y.getLsbD i = true := by decide

theorem joypadStep_iflag (s : State) : (joypadStep s).iflag =
    if s.joy.lines &&& ~~~joypadLines s = 0 then s.iflag else s.iflag ||| 0b10000 := by
  rw [joypadStep, State.requestIf_iflag]
  simp only [ne_eq, decide_not, Bool.not_eq_true', decide_eq_false_iff_not, ite_not]
  rfl

/-- Under the mask 0x30 a write of `P1` stores bits 5 and 4. -/
theorem p1_selection : ∀ (v : Byte) (y : BitVec 2), (mergeMask 0x30 (p1Stored y) v).extractLsb' 4 2 = v.extractLsb' 4 2 := by
  decide

/-- Settles O47: the lines by `joypadLines_low`; the step requests when one of them falls. -/
theorem joypadPort : Obligations.JoypadPort := by
  intro s v pressed low t
  have hp : place s 0xFF00 = .io .p1 := place_register .p1 rfl nofun
  have hread : peek s 0xFF00 = readP1 s := peek_register hp
  have hlow : ∀ i : Fin 4, (joypadLines s).getLsbD i = false ↔ low i := joypadLines_low s
  obtain ⟨hselect, hsix, hseven⟩ := readP1_high (joypadLines s) s.joy.select
  rw [hread, extractLsb'_readP1]
  refine ⟨fun i => by rw [readP1_lines, hlow], hselect, hsix, hseven, joypadStep_parts s, fun ⟨i, hset, hi⟩ => ?_, fun h => ?_,
    fun hmask => ?_⟩
  · refine (joypadStep_iflag s).trans (if_neg fun h0 => ?_)
    have hstill := (fallen_eq_zero _ _).1 h0 i hset
    rw [(hlow i).2 hi] at hstill
    exact absurd hstill (by decide)
  · refine (joypadStep_iflag s).trans (if_pos ((fallen_eq_zero _ _).2 fun i hset => ?_))
    exact Bool.not_eq_false _ ▸ fun hf => h i hset ((hlow i).1 hf)
  · rw [busWrite_register hp, ioWrite, hmask, p1_selection]

end Sys2Proof.Machine
end

section
/-! The register block (20_memory.md rules R74 to R80, R345): a register's address is a read and a write of the register. -/

namespace Sys2Proof.Machine

variable {s : State} {a : Word}

/-- A register's own address reads and writes it. -/
theorem accesses_register (r : IoReg) (ha : a.toNat = ioKey r) (h : r.colourOnly = true → s.cfg.cgb = true) (v : Byte) :
    peek s a = ioRead s r ∧ busWrite a v s = ioWrite r v s :=
  ⟨peek_register (place_register r ha h), busWrite_register (place_register r ha h) v⟩

/-- The address of a register as the sum of the block's start and its offset. -/
theorem toNat_registerAddress (r : IoReg) : (BitVec.ofNat 16 (0xFF00 + r.offset)).toNat = ioKey r := by
  obtain ⟨-, hhi⟩ := ioKey_range r
  rw [BitVec.toNat_ofNat, ← ioKey]
  exact Nat.mod_eq_of_lt (by omega)

/-! ## Registers without a rule of their own -/

/-- Both accesses of a register without a rule of its own are those of its stored byte (R74). -/
def PlainRegister (r : IoReg) : Prop :=
  ∀ (s : State) (v : Byte), ioRead s r = s.io r ||| s.readOr r ∧ ioWrite r v s = s.setIo r (s.masked r (s.io r) v)

theorem plainRegister_of_listed : ∀ r ∈ plainRegisters, PlainRegister r := by
  simp only [plainRegisters, List.forall_mem_cons, List.not_mem_nil, false_implies, implies_true, and_true]
  and_intros
  all_goals exact fun _ _ => ⟨rfl, rfl⟩

theorem plainRegister_of_colour : ∀ r ∈ [IoReg.vbk, .svbk, .bcps, .ocps], PlainRegister r := by
  simp only [List.forall_mem_cons, List.not_mem_nil, false_implies, implies_true, and_true]
  and_intros
  all_goals exact fun _ _ => ⟨rfl, rfl⟩

theorem colourOnly_of_listed : ∀ r ∈ plainRegisters, r.colourOnly = false := by decide

/-! ## NR52 -/

/-- A flag's weight in `NR52`. -/
def weight (b : Bool) (n : Nat) : Nat := if b then n else 0

theorem nr52Bits_eq (a : Audio) : nr52Bits a =
    BitVec.ofNat 8 (weight a.master 128 + weight a.ch4.on 8 + weight a.ch3.on 4 + weight a.ch2.on 2 + weight a.ch1.on 1) := by
  unfold nr52Bits
  generalize a.master = m, a.ch1.on = c1, a.ch2.on = c2, a.ch3.on = c3, a.ch4.on = c4
  revert m c1 c2 c3 c4
  decide

theorem bit_mergeMask_master (old v : Byte) : bit (mergeMask 0x80 old v) 7 = v.getLsbD 7 := by
  simp [bit, mergeMask]

/-! ## Triggers -/

/-- A trigger changes the audio unit at most. -/
theorem triggerIf_audio {f : State → State} (hf : ∀ t, f t = { t with audio := (f t).audio }) (v : Byte) (s : State) :
    ∃ x, triggerIf v f s = { s with audio := x } := by
  unfold triggerIf
  split
  · exact ⟨_, hf s⟩
  · exact ⟨s.audio, rfl⟩

/-! ## The palette ports -/

/-- The index after a write, as a number. -/
theorem palAdvance_eq : ∀ x : Byte, palAdvance x =
    BitVec.ofNat 8 (if 128 ≤ x.toNat then x.toNat / 64 * 64 + (x.toNat % 64 + 1) % 64 else x.toNat) := by decide

theorem palettePort_of_accesses {port index : IoReg} {key : Nat → Nat} {v : Byte}
    (hread : peek s a = s.cell (key (palIndex (s.io index))) ||| s.readOr port)
    (hwrite : busWrite a v s = palWrite index (key (palIndex (s.io index))) port v s) :
    PalettePort s a port index key v := by
  refine ⟨hread, hwrite.trans ?_⟩
  rw [palWrite, palAdvance_eq]
  rfl

/-! ## The statement -/

theorem plainRegister_accesses {r : IoReg} (hplain : PlainRegister r) (h : r.colourOnly = true → s.cfg.cgb = true) (v : Byte) :
    peek s (BitVec.ofNat 16 (0xFF00 + r.offset)) = s.io r ||| s.readOr r ∧
    busWrite (BitVec.ofNat 16 (0xFF00 + r.offset)) v s = s.setIo r (s.masked r (s.io r) v) := by
  obtain ⟨hread, hwrite⟩ := accesses_register r (toNat_registerAddress r) h v
  obtain ⟨hr, hw⟩ := hplain s v
  exact ⟨hread.trans hr, hwrite.trans hw⟩

/-- Settles O44: the access of each address is that of its register. -/
theorem deviceRegisters : Obligations.DeviceRegisters := by
  refine ⟨fun s r v h => ?_, fun s v => ⟨?_, ?_, ?_, ?_⟩, fun s v => ?_, fun s v hc => ?_⟩
  · rcases h with h | ⟨i, rfl⟩ | ⟨hc, h⟩
    · exact plainRegister_accesses (plainRegister_of_listed r h) (by simp [colourOnly_of_listed r h]) v
    · exact plainRegister_accesses (r := .wave i) (fun _ _ => ⟨rfl, rfl⟩) nofun v
    · exact plainRegister_accesses (plainRegister_of_colour r h) (fun _ => hc) v
  · obtain ⟨hread, hwrite⟩ := accesses_register (s := s) (a := 0xFF04) .div rfl nofun v
    refine ⟨hread, hwrite, ?_⟩
    rw [hwrite, peek_register (place_register .div rfl nofun)]
    exact (by decide : hiByte 0 = 0)
  · exact accesses_register .intf rfl nofun v
  · obtain ⟨hread, hwrite⟩ := accesses_register (s := s) (a := 0xFF41) .stat rfl nofun v
    refine ⟨hread, fun hmask => ?_⟩
    rw [hwrite, ioWrite, hmask, mergeMask, BitVec.or_comm]
    rfl
  · obtain ⟨hread, hwrite⟩ := accesses_register (s := s) (a := 0xFF44) .ly rfl nofun v
    exact ⟨by rw [hread]; exact BitVec.toNat_ofNat .., hwrite⟩
  · have access : ∀ {b : Word} (r : IoReg), b.toNat = ioKey r → r.colourOnly = false →
        peek s b = ioRead s r ∧ busWrite b v s = ioWrite r v s :=
      fun r hb hc => accesses_register r hb (by simp [hc]) v
    intro put a on
    obtain ⟨hread, hwrite⟩ := access (b := 0xFF26) .nr52 rfl rfl
    refine ⟨?_, fun hmask => ?_, ?_, (access .nr11 rfl rfl).2, (access .nr21 rfl rfl).2, (access .nr31 rfl rfl).2,
      (access .nr41 rfl rfl).2, ?_, (access .bank rfl rfl).2⟩
    · rw [hread, ioRead, nr52Bits_eq, BitVec.or_comm]
      rfl
    · rw [hwrite, ioWrite, hmask, bit_mergeMask_master]
    · simp only [List.forall_mem_cons, List.not_mem_nil, false_implies, implies_true, and_true]
      exact ⟨(access .nr11 rfl rfl).1, (access .nr14 rfl rfl).1, (access .nr21 rfl rfl).1, (access .nr24 rfl rfl).1,
        (access .nr31 rfl rfl).1, (access .nr34 rfl rfl).1, (access .nr41 rfl rfl).1, (access .nr44 rfl rfl).1,
        (access .bank rfl rfl).1⟩
    · simp only [List.forall_mem_cons, List.not_mem_nil, false_implies, implies_true, and_true]
      refine ⟨?_, ?_, ?_, ?_⟩
      · exact (access (b := 0xFF14) .nr14 rfl rfl).2 ▸ triggerIf_audio (f := trigger1) (fun _ => rfl) v (put .nr14)
      · exact (access (b := 0xFF19) .nr24 rfl rfl).2 ▸ triggerIf_audio (f := trigger2) (fun _ => rfl) v (put .nr24)
      · exact (access (b := 0xFF1E) .nr34 rfl rfl).2 ▸ triggerIf_audio (f := trigger3) (fun _ => rfl) v (put .nr34)
      · exact (access (b := 0xFF23) .nr44 rfl rfl).2 ▸ triggerIf_audio (f := trigger4) (fun _ => rfl) v (put .nr44)
  · have access : ∀ {b : Word} (r : IoReg), b.toNat = ioKey r → peek s b = ioRead s r ∧ busWrite b v s = ioWrite r v s :=
      fun r hb => accesses_register r hb (fun _ => hc) v
    intro hi lo d
    obtain ⟨hread1, hwrite1⟩ := access (b := 0xFF51) .hdma1 rfl
    obtain ⟨hread2, hwrite2⟩ := access (b := 0xFF52) .hdma2 rfl
    obtain ⟨hread3, hwrite3⟩ := access (b := 0xFF53) .hdma3 rfl
    obtain ⟨hread4, hwrite4⟩ := access (b := 0xFF54) .hdma4 rfl
    obtain ⟨hreadB, hwriteB⟩ := access (b := 0xFF69) .bcpd rfl
    obtain ⟨hreadO, hwriteO⟩ := access (b := 0xFF6B) .ocpd rfl
    exact ⟨hread1, hread2, hread3, hread4, hwrite1, hwrite2, hwrite3, hwrite4, palettePort_of_accesses hreadB hwriteB,
      palettePort_of_accesses hreadO hwriteO⟩

end Sys2Proof.Machine
end

section
/-! HBlank and General DMA (20_memory.md rules R83, R84): the copy byte by byte, then the writes of `HDMA5` and the service of a
block. -/

namespace Sys2Proof.Machine

variable {s u : State} {src dst n k : Nat}

/-! ## The copy -/

/-- The addresses of the destination bytes. -/
def vramAddresses (dst n : Nat) : List Word := (List.range n).map fun i => BitVec.ofNat 16 (0x8000 + dst + i)

theorem place_vramAddress (s : State) {i : Nat} (h : dst + i < 0x2000) :
    place s (BitVec.ofNat 16 (0x8000 + dst + i)) = .ram (vramKey (vramBank s) (0x8000 + dst + i)) := by
  have ha : (BitVec.ofNat 16 (0x8000 + dst + i)).toNat = 0x8000 + dst + i := by
    rw [BitVec.toNat_ofNat, Nat.mod_eq_of_lt (by omega)]
  rw [place_vram (by omega) (by omega), ha]

theorem mem_vramAddresses {i : Nat} (h : i < n) : BitVec.ofNat 16 (0x8000 + dst + i) ∈ vramAddresses dst n :=
  List.mem_map.2 ⟨i, List.mem_range.2 h, rfl⟩

/-- After `k` of the bytes only destination bytes have changed. -/
theorem CopiedToVram.cell_ne (h : CopiedToVram s u src dst k) (hk : k ≤ n) (hfit : dst + n ≤ 0x2000) {c : Nat}
    (hc : ∀ a ∈ vramAddresses dst n, place s a ≠ .ram c) : u.cell c = s.cell c := by
  obtain ⟨-, hcell⟩ := h
  refine (hcell c).trans (if_neg fun ⟨hlo, hhi⟩ => ?_)
  refine hc _ (mem_vramAddresses (i := c - vramKey (vramBank s) (0x8000 + dst)) (by omega)) ?_
  rw [place_vramAddress s (by omega)]
  refine congrArg Place.ram ?_
  unfold vramKey at hlo hhi ⊢
  omega

/-- The copy so far is a chain of stores to RAM. -/
theorem CopiedToVram.ramOnly (h : CopiedToVram s u src dst k) (hdma : u.hdma = s.hdma) (hk : k < n) (hfit : dst + n ≤ 0x2000) :
    RamOnly (vramAddresses dst n) s u := by
  have hcell : ∀ c, (∀ a ∈ vramAddresses dst n, place s a ≠ .ram c) → u.cell c = s.cell c :=
    fun c hc => h.cell_ne hk.le hfit hc
  have hio : ∀ r, u.io r = s.io r := fun r => hcell _ fun a _ e => ram_key_ne_ioKey e r rfl
  have hrest : u = { s with mem := u.mem } := by
    rw [h.1, hdma]
  refine ⟨by rw [hrest], fun hl => absurd (mem_vramAddresses (dst := dst) hk) (hl ▸ List.not_mem_nil), hcell, ?_⟩
  exact place_congr (s := s) (t := u) (by rw [hrest]) (by rw [hrest]) (by rw [hrest]) (hio _) (hio _)

theorem CopiedToVram.refl (s : State) : CopiedToVram s s src dst 0 :=
  ⟨rfl, fun _ => (if_neg (by omega)).symm⟩

/-- The next byte. -/
theorem CopiedToVram.next (h : CopiedToVram s u src dst k) (hdma : u.hdma = s.hdma) (hk : k < n) (hfit : dst + n ≤ 0x2000)
    (hplain : PlainSource s src dst n) : let a : Word := BitVec.ofNat 16 (src + k)
    observe u a = u ∧
    CopiedToVram s (u.setCell (vramKey (vramBank u) (0x8000 + dst + k)) (peek u a)) src dst (k + 1) := by
  intro a
  obtain ⟨hread, hne⟩ := hplain k hk
  have hr := h.ramOnly hdma hk hfit
  have hpeek : peek u a = peek s a := by
    refine hr.peek hread fun b hb => ?_
    obtain ⟨i, hi, rfl⟩ := List.mem_map.1 hb
    have hi' := List.mem_range.1 hi
    rw [place_vramAddress s (by omega)]
    exact hne i hi'
  have hbank : vramBank u = vramBank s := by
    have hplace := hr.place (BitVec.ofNat 16 (0x8000 + dst + k))
    rw [place_vramAddress s (by omega), place_vramAddress u (by omega), Place.ram.injEq, vramKey, vramKey] at hplace
    omega
  obtain ⟨hrest, hcell⟩ := h
  refine ⟨observe_plain fun r e => hread r ((hr.place a).symm.trans e), ?_, fun c => ?_⟩
  · have hset : ∀ c v, u.setCell c v = { s with mem := (u.setCell c v).mem, hdma := (u.setCell c v).hdma } := fun c v => by
      rw [hrest]
      rfl
    exact hset _ _
  · rw [State.cell_setCell, hbank, hpeek, hcell]
    have hkey : vramKey (vramBank s) (0x8000 + dst + k) = vramKey (vramBank s) (0x8000 + dst) + k := (Nat.add_assoc _ _ _).symm
    rw [hkey]
    generalize vramKey (vramBank s) (0x8000 + dst) = base
    dsimp only
    split
    · next e => simp [e, a]
    · exact if_congr (by omega) rfl rfl

/-- The rest of the bytes. -/
theorem CopiedToVram.hdmaCopy {ws wd : Word} (hplain : PlainSource s ws.toNat wd.toNat n) (hfit : wd.toNat + n ≤ 0x2000)
    (m k : Nat) (hmk : k + m = n) {u : State} (h : CopiedToVram s u ws.toNat wd.toNat k) (hdma : u.hdma = s.hdma) :
    CopiedToVram s (hdmaCopy ws wd m k u) ws.toNat wd.toNat n := by
  induction m generalizing k u with
  | zero => exact hmk ▸ h
  | succ m ih =>
    obtain ⟨hobserve, hnext⟩ := h.next hdma (n := n) (by omega) hfit hplain
    have hsource : ws + BitVec.ofNat 16 k = BitVec.ofNat 16 (ws.toNat + k) := by
      rw [BitVec.ofNat_add, BitVec.ofNat_toNat, BitVec.setWidth_eq]
    have hdest : 0x8000 + (wd.toNat + k) % 0x2000 = 0x8000 + wd.toNat + k := by omega
    rw [Machine.hdmaCopy, hsource, hdest, hobserve]
    exact ih (k + 1) (by omega) hnext hdma

/-- Another state of the DMA is no matter. -/
theorem CopiedToVram.withHdma {t : State} (h : CopiedToVram s t src dst n) (x : Hdma) :
    CopiedToVram s { t with hdma := x } src dst n := by
  obtain ⟨hrest, hcell⟩ := h
  refine ⟨?_, hcell⟩
  conv_lhs => rw [hrest]

theorem hdmaCopy_hdma (ws wd : Word) (n k : Nat) (s : State) : (hdmaCopy ws wd n k s).hdma = s.hdma := by rw [hdmaCopy_parts]

theorem hdmaCopy_cfg (ws wd : Word) (n k : Nat) (s : State) : (hdmaCopy ws wd n k s).cfg = s.cfg := by rw [hdmaCopy_parts]

/-! ## The two addresses -/

theorem mask_source (x : Word) : x &&& 0xFFF0 = x.extractLsb' 4 12 ++ (0 : BitVec 4) := by
  have hmask : ∀ i < 16, (0xFFF0 : Word).getLsbD i = !decide (i < 4) := by decide
  refine BitVec.eq_of_getLsbD_eq fun i hi => ?_
  rw [BitVec.getLsbD_and, hmask i hi, BitVec.getLsbD_append]
  split
  · next h => simp [h]
  · next h => simp [h, show i - 4 < 12 by omega, show 4 + (i - 4) = i by omega]

theorem mask_destination (x : Word) : x &&& 0x1FF0 = (0 : BitVec 3) ++ (x.extractLsb' 4 9 ++ (0 : BitVec 4)) := by
  have hmask : ∀ i < 16, (0x1FF0 : Word).getLsbD i = (!decide (i < 4) && decide (i < 13)) := by decide
  refine BitVec.eq_of_getLsbD_eq fun i hi => ?_
  rw [BitVec.getLsbD_and, hmask i hi, BitVec.getLsbD_append, BitVec.getLsbD_append]
  by_cases h4 : i < 4
  · simp [h4, show i < 13 by omega]
  · by_cases h13 : i < 13
    · simp [h4, h13, show i - 4 < 9 by omega, show 4 + (i - 4) = i by omega]
    · simp [h13]

theorem toNat_hdmaSrc (s : State) : (hdmaSrc s).toNat = s.hdma.src.toNat / 16 * 16 := by
  have hlt := s.hdma.src.isLt
  rw [hdmaSrc, mask_source, toNat_append_eq, toNat_field, show (0 : BitVec 4).toNat = 0 from rfl]
  omega

theorem toNat_hdmaDst (s : State) : (hdmaDst s).toNat = s.hdma.dst.toNat % 0x2000 / 16 * 16 := by
  rw [hdmaDst, mask_destination, toNat_append_eq, toNat_append_eq, toNat_field, show (0 : BitVec 4).toNat = 0 from rfl,
    show (0 : BitVec 3).toNat = 0 from rfl]
  omega

/-- A copy from and to the addresses the registers give. -/
theorem copiedToVram_registers {src dst : Nat} (hs : src = s.hdma.src.toNat / 16 * 16)
    (hd : dst = s.hdma.dst.toNat % 0x2000 / 16 * 16) (hplain : PlainSource s src dst n) (hfit : dst + n ≤ 0x2000) :
    CopiedToVram s (hdmaCopy (hdmaSrc s) (hdmaDst s) n 0 s) src dst n := by
  rw [← toNat_hdmaSrc] at hs
  rw [← toNat_hdmaDst] at hd
  subst hs hd
  exact CopiedToVram.hdmaCopy hplain hfit n 0 (Nat.zero_add n) (.refl s) rfl

/-! ## The statement -/

/-- `HDMA5` reads the active flag, inverted, over the remaining count. -/
theorem peek_hdma5 {t : State} (h : t.cfg.cgb = true) :
    peek t 0xFF55 = BitVec.ofBool (!t.hdma.active) ++ t.hdma.remaining :=
  peek_register (place_register .hdma5 rfl fun _ => h)

theorem ofBool_false_append : ∀ x : BitVec 7, BitVec.ofBool false ++ x = x.zeroExtend 8 := by decide
theorem ofBool_true_append : ∀ x : BitVec 7, BitVec.ofBool true ++ x = 0x80 ||| x.zeroExtend 8 := by decide
theorem low_seven_bits : ∀ v : Byte, v.extractLsb' 0 7 = BitVec.ofNat 7 v.toNat := by decide
theorem zeroExtend_low_seven : ∀ v : Byte, (BitVec.ofNat 7 v.toNat).zeroExtend 8 = v &&& 0x7F := by decide

theorem hdma5Write_start {v : Byte} (h : 128 ≤ v.toNat) (s : State) : hdma5Write v s =
    { s with hdma := { s.hdma with remaining := BitVec.ofNat 7 v.toNat, active := true } } := by
  rw [hdma5Write, if_pos (by simp [bit_seven, h]), low_seven_bits]

theorem hdma5Write_cancel {v : Byte} (h : v.toNat < 128) (hact : s.hdma.active = true) :
    hdma5Write v s = { s with hdma := { s.hdma with active := false } } := by
  rw [hdma5Write, if_neg (by simp [bit_seven, h]), if_pos hact]

theorem hdma5Write_general {v : Byte} (h : v.toNat < 128) (hact : s.hdma.active = false) : hdma5Write v s =
    { hdmaCopy (hdmaSrc s) (hdmaDst s) ((v.toNat + 1) * 16) 0 s with hdma :=
      { s.hdma with remaining := 0x7F, stall := s.cfg.gdmaTicksPerByte * ((v.toNat + 1) * 16) } } := by
  rw [hdma5Write, if_neg (by simp [bit_seven, h]), if_neg (by simp [hact])]
  simp only [generalDma, Nat.mod_eq_of_lt h, hdmaCopy_hdma]

theorem colourOffsets_hdma : ∀ n < 0x56, 0x51 ≤ n → n ∈ colourOffsets := by decide

/-- The service of a block in colour mode while a transfer is active. -/
theorem hblankDma_active (hc : s.cfg.cgb = true) (hact : s.hdma.active = true) : hblankDma s =
    { hdmaCopy (hdmaSrc s) (hdmaDst s) 16 0 s with hdma :=
      { src := s.hdma.src + 16, dst := s.hdma.dst + 16, remaining := s.hdma.remaining - 1
        active := decide (s.hdma.remaining ≠ 0), stall := s.hdma.stall + s.cfg.gdmaTicksPerByte * 16 } } :=
  if_pos (by rw [hc, hact]; rfl)

theorem hblankDma_idle (h : s.cfg.cgb = false ∨ s.hdma.active = false) : hblankDma s = s :=
  if_neg (by rcases h with h | h <;> simp [h])

/-- Settles O45: a write of `HDMA5` has three cases, a block one; both copies are `copiedToVram_registers`. -/
theorem colourDma : Obligations.ColourDma := by
  refine ⟨fun s a hc hlo hhi => ?_, fun s v hc => ?_, fun s => hblankDma_idle, fun s hc hact => ?_⟩
  · have hplace := place_block (s := s) (a := a) (by omega) (by omega)
    rw [hc, ioRegAt_colourOnly _ (colourOffsets_hdma _ (by omega) (by omega))] at hplace
    exact nothingAt_of_place (.inl hplace)
  · intro t
    have ht : t = hdma5Write v s := busWrite_register (place_register .hdma5 rfl fun _ => hc) v
    refine ⟨fun hact => ?_, fun hv hact => ?_, fun hv => ?_, fun hv hact => ?_⟩
    · rw [peek_hdma5 hc, hact]
      exact ofBool_false_append _
    · have ht' := ht.trans (hdma5Write_cancel hv hact)
      refine ⟨ht', ?_⟩
      rw [peek_hdma5 (by rw [ht']; exact hc), ht']
      exact ofBool_true_append _
    · have ht' := ht.trans (hdma5Write_start hv s)
      refine ⟨ht', ?_⟩
      rw [peek_hdma5 (by rw [ht']; exact hc), ht']
      exact (ofBool_false_append _).trans (zeroExtend_low_seven v)
    · intro len src dst
      have hcfg : t.cfg.cgb = true := by
        rw [ht, hdma5Write_general hv hact]
        exact (congrArg (·.cgb) (hdmaCopy_cfg _ _ _ _ s)).trans hc
      rw [peek_hdma5 hcfg, ht, hdma5Write_general hv hact]
      refine ⟨rfl, ?_, fun hplain hfit => (copiedToVram_registers rfl rfl hplain hfit).withHdma _⟩
      show BitVec.ofBool (!s.hdma.active) ++ (0x7F : BitVec 7) = 0xFF
      rw [hact]
      rfl
  · intro t src dst
    have ht : t = _ := hblankDma_active hc hact
    have hcfg : t.cfg.cgb = true := by
      rw [ht]
      exact (congrArg (·.cgb) (hdmaCopy_cfg _ _ _ _ s)).trans hc
    refine ⟨by rw [ht], fun hlast => ?_, fun hplain => ?_⟩
    · rw [peek_hdma5 hcfg, ht]
      simp only [hlast]
      rfl
    · rw [ht]
      exact (copiedToVram_registers rfl rfl hplain (by omega)).withHdma _

end Sys2Proof.Machine
end

section
/-! The OAM DMA transfer (20_memory.md rule R81): one bus step of it, then the 160 by induction on the bytes copied. -/

namespace Sys2Proof.Machine

variable {s u : State} {v : Byte} {j : Nat}

/-! ## One bus step -/

theorem timerStep_cell (s : State) {c : Nat} (h : c ≠ ioKey .tima) : (timerStep s).cell c = s.cell c :=
  (timerEdge_cell (divStep (timerReload s)) h).trans (timerReload_cell s h)

theorem timerStep_dma (s : State) : (timerStep s).dma = s.dma := by rw [timerStep_parts]

theorem timerStep_cfg (s : State) : (timerStep s).cfg = s.cfg := by rw [timerStep_parts]

theorem joypadStep_cell (s : State) (c : Nat) : (joypadStep s).cell c = s.cell c := by rw [joypadStep_parts]; rfl

theorem joypadStep_dma (s : State) : (joypadStep s).dma = s.dma := by rw [joypadStep_parts]

theorem oamDmaStep_eq (h : 0 < s.dma.left) : let a := s.dma.src + BitVec.ofNat 16 (160 - s.dma.left)
    oamDmaStep s = { (observe s a).setCell (oamKey (160 - s.dma.left)) (peek s a) with
      dma := { src := s.dma.src, left := s.dma.left - 1 } } := if_pos h

/-- A byte of a source in RAM. -/
theorem oamDmaStep_ram (h : 0 < s.dma.left) {c : Nat}
    (hplace : place s (s.dma.src + BitVec.ofNat 16 (160 - s.dma.left)) = .ram c) :
    oamDmaStep s = { s.setCell (oamKey (160 - s.dma.left)) (s.cell c) with
      dma := { src := s.dma.src, left := s.dma.left - 1 } } := by
  rw [oamDmaStep_eq h, observe_ram hplace, peek_ram hplace]

theorem busStep_ram (h : 0 < s.dma.left) {c : Nat}
    (hplace : place (timerStep s) (s.dma.src + BitVec.ofNat 16 (160 - s.dma.left)) = .ram c) :
    (busStep s).dma = { src := s.dma.src, left := s.dma.left - 1 } ∧
    ∀ x, (busStep s).cell x = if x = oamKey (160 - s.dma.left) then (timerStep s).cell c else (timerStep s).cell x := by
  have hdma := timerStep_dma s
  rw [← hdma] at h hplace ⊢
  rw [busStep, joypadStep_dma]
  simp only [joypadStep_cell]
  rw [oamDmaStep_ram h hplace]
  exact ⟨rfl, fun x => State.cell_setCell (timerStep s) _ x _⟩

/-! ## The transfer -/

/-- `j` bytes of a transfer from the video RAM page `v` of `s` have been copied. -/
structure Transferred (s : State) (v : Byte) (j : Nat) (u : State) : Prop where
  dma : u.dma = { src := v ++ (0x00 : Byte), left := 160 - j }
  cfg : u.cfg = s.cfg
  bank : u.io .vbk = s.io .vbk
  source : ∀ k < 160, u.cell (vramKey (vramBank s) (v.toNat * 256 + k)) = s.cell (vramKey (vramBank s) (v.toNat * 256 + k))
  copied : ∀ k < j, u.cell (oamKey k) = s.cell (vramKey (vramBank s) (v.toNat * 256 + k))

theorem vramBank_congr (hcfg : u.cfg = s.cfg) (hbank : u.io .vbk = s.io .vbk) : vramBank u = vramBank s := by
  unfold vramBank
  rw [hcfg, hbank]

theorem toNat_transferSource (v : Byte) {k : Nat} (h : k < 160) :
    ((v ++ (0x00 : Byte)) + BitVec.ofNat 16 k).toNat = v.toNat * 256 + k := by
  have hv := v.isLt
  rw [BitVec.toNat_add, toNat_append_eq, BitVec.toNat_ofNat, show (0x00 : Byte).toNat = 0 from rfl]
  omega

/-- The write of the page starts a transfer. -/
theorem ioWrite_dma (v : Byte) (s : State) :
    ioWrite .dma v s = { s.setIo .dma v with dma := { src := v ++ (0x00 : Byte), left := 160 } } := rfl

theorem transferred_start (hlo : 0x80 ≤ v.toNat) (hhi : v.toNat ≤ 0x9F) : Transferred s v 0 (ioWrite .dma v s) where
  dma := rfl
  cfg := rfl
  bank := State.io_setIo_ne s v nofun
  source k hk := State.cell_setCell_ne s v (by simp only [vramKey, ioKey, IoReg.offset]; omega)
  copied k hk := absurd hk (by omega)

theorem Transferred.next (hlo : 0x80 ≤ v.toNat) (hhi : v.toNat ≤ 0x9F) (h : Transferred s v j u) (hj : j < 160) :
    Transferred s v (j + 1) (busStep u) := by
  have hleft : u.dma.left = 160 - j := by rw [h.dma]
  have hsrc : u.dma.src = v ++ (0x00 : Byte) := by rw [h.dma]
  have hk : 160 - u.dma.left = j := by omega
  have haddr := toNat_transferSource v hj
  have hbank : vramBank (timerStep u) = vramBank s :=
    vramBank_congr ((timerStep_cfg u).trans h.cfg) ((timerStep_cell u (by decide)).trans h.bank)
  have hplace : place (timerStep u) (u.dma.src + BitVec.ofNat 16 (160 - u.dma.left)) =
      .ram (vramKey (vramBank s) (v.toNat * 256 + j)) := by
    rw [hk, hsrc, place_vram (by omega) (by omega), haddr, hbank]
  obtain ⟨hdma, hcell⟩ := busStep_ram (by omega) hplace
  rw [hk] at hcell
  have hother : ∀ x, x ≠ oamKey j → x ≠ ioKey .tima → (busStep u).cell x = u.cell x := fun x hx ht => by
    rw [hcell, if_neg hx, timerStep_cell u ht]
  have hsource : ∀ k < 160, ∀ i, i < 160 → vramKey (vramBank s) (v.toNat * 256 + k) ≠ oamKey i ∧
      vramKey (vramBank s) (v.toNat * 256 + k) ≠ ioKey .tima := fun k hk i hi => by
    simp only [vramKey, oamKey, ioKey, IoReg.offset]
    omega
  refine ⟨?_, ?_, ?_, fun k hk => ?_, fun k hk => ?_⟩
  · rw [hdma, hsrc, hleft]
    rfl
  · rw [busStep_parts]
    exact h.cfg
  · exact (hother _ (by simp only [oamKey, ioKey, IoReg.offset]; omega) (by decide)).trans h.bank
  · obtain ⟨hoam, htima⟩ := hsource k hk j hj
    exact (hother _ hoam htima).trans (h.source k hk)
  · by_cases hkj : k = j
    · rw [hkj, hcell, if_pos rfl, timerStep_cell u (hsource j hj 0 (by omega)).2, h.source j hj]
    · rw [hother _ (by simp only [oamKey]; omega) (by simp only [oamKey, ioKey, IoReg.offset]; omega), h.copied k (by omega)]

theorem transferred_iterate (hlo : 0x80 ≤ v.toNat) (hhi : v.toNat ≤ 0x9F) (hj : j ≤ 160) :
    Transferred s v j (busStep^[j] (ioWrite .dma v s)) := by
  induction j with
  | zero => exact transferred_start hlo hhi
  | succ j ih =>
    rw [Function.iterate_succ_apply']
    exact (ih (by omega)).next hlo hhi (by omega)

/-- Settles O39: the write starts the transfer and each bus step is its next byte. -/
theorem oamDmaTransfer : Obligations.OamDmaTransfer := by
  have hwrite : ∀ (s : State) (v : Byte), busWrite 0xFF46 v s = ioWrite .dma v s := fun s v =>
    busWrite_register (place_register .dma rfl nofun) v
  refine ⟨fun s v => ?_, fun s h h' => oamDmaStep_eq h, fun s h => if_neg (by omega), fun s v hlo hhi => ?_⟩
  · rw [hwrite, ioWrite_dma]
    have hfree : cpuRestricted s 0xFF46 = false := Bool.eq_false_iff.2 fun h => (cpuRestricted_iff.1 h).2.2.1 rfl
    refine ⟨rfl, ?_, hfree, (cpuWrite_free hfree v).trans ((hwrite s v).trans (ioWrite_dma v s))⟩
    rw [peek_register (place_register .dma rfl nofun)]
    exact State.io_setIo_self s .dma v
  · rw [hwrite]
    have hend := transferred_iterate (s := s) hlo hhi (j := 160) le_rfl
    have hlast := transferred_iterate (s := s) hlo hhi (j := 159) (by omega)
    refine ⟨congrArg OamDma.left hend.dma, congrArg OamDma.left hlast.dma, hend.copied⟩

end Sys2Proof.Machine
end

section
/-! The scanline state machine (60_exceptions.md rules R336, R339, R341): what each action leaves of `STAT`, the counters and the
buffers, then the action at each position. -/

namespace Sys2Proof.Machine

variable (s : State)

/-! ## The buffers -/

theorem Frame.get_set (f : Frame) (i j : Nat) (v : Rgba) : (f.set i v).get j = if j = i then v else f.get j :=
  Sparse.get_set f.base f.cells i j v

theorem getLsbD_setColumn (v : BitVec 160) (x : Nat) (b : Bool) {i : Nat} (h : i < 160) :
    (setColumn v x b).getLsbD i = if i = x then b else v.getLsbD i := by
  unfold setColumn
  by_cases hx : i = x
  · subst hx
    cases b <;> simp [h]
  · cases b <;> simp [hx, h]

/-! ## The line compare -/

theorem lineCompare_video : (lineCompare s).video = s.video := by rw [lineCompare_parts]

/-- The register after the compare: the match flag between the mode and the enables. -/
theorem lineCompare_stat : (lineCompare s).io .stat =
    (s.io .stat).extractLsb' 3 5 ++ BitVec.ofBool (lineMatches s) ++ (s.io .stat).extractLsb' 0 2 := by
  rw [lineCompare, io_requestIf, State.io_setIo_self]
  rfl

theorem lineCompare_statMode : statMode (lineCompare s) = statMode s := by
  rw [statMode, lineCompare_stat, toNat_append_eq, toNat_field, statMode]
  omega

theorem lineCompare_match : ((lineCompare s).io .stat).getLsbD 2 = lineMatches s := by
  rw [lineCompare_stat, BitVec.getLsbD_append, BitVec.getLsbD_append]
  simp

theorem cell_requestIf (b : Bool) (q : Irq) (k : Nat) : (s.requestIf b q).cell k = s.cell k := by
  rw [State.cell, State.requestIf_mem]
  rfl

theorem lineCompare_cell {k : Nat} (h : k ≠ ioKey .stat) : (lineCompare s).cell k = s.cell k := by
  rw [lineCompare, cell_requestIf]
  exact State.cell_setCell_ne s _ h

theorem setMode_cell (m : BitVec 2) {k : Nat} (h : k ≠ ioKey .stat) : (setMode m s).cell k = s.cell k :=
  State.cell_setCell_ne s _ h

theorem statMode_requestIf (b : Bool) (q : Irq) : statMode (s.requestIf b q) = statMode s := by
  rw [statMode, io_requestIf, statMode]

/-! ## The start of a visible line -/

/-- The state whose line is compared: the new frame begun and the window's mark cleared. -/
def lineBegun : State := { s with video := { newFrame s.video with winDrawn := false } }

theorem visibleLineStart_eq : visibleLineStart s =
    (setMode 2 { lineCompare (lineBegun s) with
      video := { (lineCompare (lineBegun s)).video with sprites := oamScan (lineCompare (lineBegun s)) } }).requestIf
        (bit ((lineCompare (lineBegun s)).io .stat) 5) .stat := rfl

theorem lineMatches_lineBegun : lineMatches (lineBegun s) = lineMatches s := by
  change decide (_ = (newFrame s.video).ly) = _
  rw [newFrame_parts]
  rfl

theorem visibleLineStart_video : (visibleLineStart s).video =
    { newFrame s.video with winDrawn := false, sprites := oamScan (lineCompare (lineBegun s)) } := by
  rw [visibleLineStart_eq, State.requestIf_video]
  change ({ (lineCompare (lineBegun s)).video with sprites := oamScan (lineCompare (lineBegun s)) } : Video) = _
  rw [lineCompare_video]
  rfl

theorem visibleLineStart_statMode : statMode (visibleLineStart s) = 2 := by
  rw [visibleLineStart_eq, statMode_requestIf, statMode_setMode]
  rfl

theorem visibleLineStart_stat {i : Nat} (h : 2 ≤ i) :
    ((visibleLineStart s).io .stat).getLsbD i = ((lineCompare (lineBegun s)).io .stat).getLsbD i := by
  rw [visibleLineStart_eq, io_requestIf, getLsbD_setMode_stat _ _ h]
  rfl

theorem visibleLineStart_cell {k : Nat} (h : k ≠ ioKey .stat) : (visibleLineStart s).cell k = s.cell k := by
  rw [visibleLineStart_eq, cell_requestIf, setMode_cell _ _ h]
  exact lineCompare_cell (lineBegun s) h

/-! ## The start of a line of the vertical blank -/

theorem vblankLineStart_video : (vblankLineStart s).video = s.video := by rw [vblankLineStart_parts]

theorem vblankLineStart_statMode : statMode (vblankLineStart s) = 1 := by
  rw [vblankLineStart_eq, lineCompare_statMode, statMode_requestIf, statMode_requestIf, statMode_setMode]
  rfl

theorem vblankLineStart_match : ((vblankLineStart s).io .stat).getLsbD 2 = lineMatches s := by
  rw [vblankLineStart_eq, lineCompare_match]
  unfold lineMatches
  rw [io_requestIf, io_requestIf, io_setMode s (by decide), State.requestIf_video, State.requestIf_video]
  rfl

theorem vblankLineStart_enables {i : Nat} (h : 3 ≤ i) :
    ((vblankLineStart s).io .stat).getLsbD i = (s.io .stat).getLsbD i := by
  rw [vblankLineStart_eq, getLsbD_lineCompare_stat _ h, io_requestIf, io_requestIf, getLsbD_setMode_stat _ _ (by omega)]

theorem vblankLineStart_cell {k : Nat} (h : k ≠ ioKey .stat) : (vblankLineStart s).cell k = s.cell k := by
  rw [vblankLineStart_eq, lineCompare_cell _ h, cell_requestIf, cell_requestIf, setMode_cell _ _ h]

/-! ## HBlank -/

theorem hblank_video : (hblank s).video =
    { s.video with winLine := if s.video.winDrawn then s.video.winLine + 1 else s.video.winLine } := by
  have hvideo : (hblankDma (setMode 0 s)).video = s.video := by
    rw [hblankDma_parts]
    rfl
  unfold hblank
  simp only [State.requestIf_video, hvideo]

/-- The block of a transfer is all that changes in memory but `STAT`. -/
theorem hblank_dma : (hblank s).hdma = (hblankDma (setMode 0 s)).hdma ∧ (hblank s).mem = (hblankDma (setMode 0 s)).mem ∧
    (hblank s).rtc = (hblankDma (setMode 0 s)).rtc := by
  unfold hblank
  exact ⟨State.requestIf_hdma _ _ _, State.requestIf_mem _ _ _, State.requestIf_rtc _ _ _⟩

theorem hblank_io (r : IoReg) : (hblank s).io r = (setMode 0 s).io r :=
  (io_requestIf (hblankDma (setMode 0 s)) _ .stat r).trans (io_hblankDma _ r)

theorem hblank_statMode : statMode (hblank s) = 0 := by
  rw [statMode, hblank_io]
  exact statMode_setMode s 0

theorem hblank_stat {i : Nat} (h : 2 ≤ i) : ((hblank s).io .stat).getLsbD i = (s.io .stat).getLsbD i := by
  rw [hblank_io, getLsbD_setMode_stat s 0 h]

/-! ## The action at a position -/

/-- A pixel is due at the current position (R338). -/
abbrev PixelDue : Prop :=
  s.video.ly < 144 ∧ s.cfg.pixelStartDot ≤ s.video.dot ∧ s.video.dot ≤ s.cfg.pixelStartDot + 159

/-- The position is the HBlank dot of a visible line (R336). -/
abbrev HblankDue : Prop := s.video.ly < 144 ∧ s.video.dot = s.cfg.hblankDot

/-- The column of the pixel that is due. -/
def column : Nat := s.video.dot - s.cfg.pixelStartDot

/-- The positions of the state machine, which exclude each other, and their actions. -/
theorem videoAct_cases (hok : s.cfg.Ok) :
    (s.video.ly < 144 ∧ s.video.dot = 0 ∧ ¬PixelDue s ∧ ¬HblankDue s ∧ videoAct s = visibleLineStart s) ∨
    (s.video.ly < 144 ∧ s.video.dot = 80 ∧ ¬PixelDue s ∧ ¬HblankDue s ∧ videoAct s = setMode 3 s) ∨
    (HblankDue s ∧ s.video.dot ≠ 0 ∧ s.video.dot ≠ 80 ∧ ¬PixelDue s ∧ videoAct s = hblank s) ∨
    (PixelDue s ∧ s.video.dot ≠ 0 ∧ s.video.dot ≠ 80 ∧ ¬HblankDue s ∧ videoAct s = producePixel (column s) s) ∨
    (¬s.video.ly < 144 ∧ s.video.dot = 0 ∧ ¬PixelDue s ∧ ¬HblankDue s ∧ videoAct s = vblankLineStart s) ∨
    (s.video.dot ≠ 0 ∧ (s.video.ly < 144 → s.video.dot ≠ 80) ∧ ¬PixelDue s ∧ ¬HblankDue s ∧ videoAct s = s) := by
  obtain ⟨hstart, hend, -, -⟩ := hok
  unfold videoAct PixelDue HblankDue column
  split_ifs with hline hdot htransfer hblankAt hpixel hdot
  · exact .inl ⟨hline, hdot, by omega, by omega, rfl⟩
  · exact .inr (.inl ⟨hline, htransfer, by omega, by omega, rfl⟩)
  · exact .inr (.inr (.inl ⟨⟨hline, hblankAt⟩, hdot, htransfer, by omega, rfl⟩))
  · exact .inr (.inr (.inr (.inl ⟨⟨hline, by omega⟩, hdot, htransfer, by omega, rfl⟩)))
  · exact .inr (.inr (.inr (.inr (.inr ⟨hdot, fun _ => htransfer, by omega, by omega, rfl⟩))))
  · exact .inr (.inr (.inr (.inr (.inl ⟨hline, hdot, by omega, by omega, rfl⟩))))
  · exact .inr (.inr (.inr (.inr (.inr ⟨hdot, by omega, by omega, by omega, rfl⟩))))

/-! ## Mode, match flag and enables after a step -/

theorem videoAct_statMode (hok : s.cfg.Ok) : statMode (videoAct s) = if s.video.ly < 144 then
    (if s.video.dot = 0 then 2 else if s.video.dot = 80 then 3 else if s.video.dot = s.cfg.hblankDot then 0 else statMode s)
    else if s.video.dot = 0 then 1 else statMode s := by
  rcases videoAct_cases s hok with ⟨hv, hd, -, -, he⟩ | ⟨hv, hd, -, -, he⟩ | ⟨⟨hv, hh⟩, h0, h80, -, he⟩ |
    ⟨⟨hv, -⟩, h0, h80, hh, he⟩ | ⟨hv, hd, -, -, he⟩ | ⟨h0, h80, -, hh, he⟩ <;> rw [he]
  · rw [visibleLineStart_statMode, if_pos hv, if_pos hd]
  · rw [statMode_setMode, if_pos hv, if_neg (by omega), if_pos hd]
    rfl
  · rw [hblank_statMode, if_pos hv, if_neg h0, if_neg h80, if_pos hh]
  · rw [if_pos hv, if_neg h0, if_neg h80, if_neg fun e => hh ⟨hv, e⟩]
    rfl
  · rw [vblankLineStart_statMode, if_neg hv, if_pos hd]
  · split_ifs with hv htransfer hhb
    · exact absurd htransfer (h80 hv)
    · exact absurd ⟨hv, hhb⟩ hh
    · rfl
    · rfl

theorem videoAct_match (hok : s.cfg.Ok) : ((videoAct s).io .stat).getLsbD 2 =
    if s.video.dot = 0 then lineMatches s else (s.io .stat).getLsbD 2 := by
  rcases videoAct_cases s hok with ⟨-, hd, -, -, he⟩ | ⟨-, hd, -, -, he⟩ | ⟨-, h0, -, -, he⟩ | ⟨-, h0, -, -, he⟩ |
    ⟨-, hd, -, -, he⟩ | ⟨h0, -, -, -, he⟩ <;> rw [he]
  · rw [visibleLineStart_stat s le_rfl, lineCompare_match, lineMatches_lineBegun, if_pos hd]
  · rw [getLsbD_setMode_stat s 3 le_rfl, if_neg (by omega)]
  · rw [hblank_stat s le_rfl, if_neg h0]
  · rw [if_neg h0]
    rfl
  · rw [vblankLineStart_match, if_pos hd]
  · rw [if_neg h0]

theorem videoAct_enables (hok : s.cfg.Ok) {i : Nat} (hi : 3 ≤ i) :
    ((videoAct s).io .stat).getLsbD i = (s.io .stat).getLsbD i := by
  have hi2 : 2 ≤ i := by omega
  rcases videoAct_cases s hok with ⟨-, -, -, -, he⟩ | ⟨-, -, -, -, he⟩ | ⟨-, -, -, -, he⟩ | ⟨-, -, -, -, he⟩ |
    ⟨-, -, -, -, he⟩ | ⟨-, -, -, -, he⟩ <;> rw [he]
  · rw [visibleLineStart_stat s hi2, getLsbD_lineCompare_stat _ hi]
    rfl
  · exact getLsbD_setMode_stat s 3 hi2
  · exact hblank_stat s hi2
  · rfl
  · exact vblankLineStart_enables s hi

/-! ## The window line counter, its mark, and the buffers after a step -/

theorem newFrame_zero {v : Video} (h : v.ly = 0) : newFrame v = { v with winLine := 0, bgPriority := 0, bgDrawn := 0 } :=
  if_pos h

theorem newFrame_later {v : Video} (h : v.ly ≠ 0) : newFrame v = v := if_neg h

/-- What the action leaves of the video unit but the sprite list: at the start of a visible line the new frame, a count of the
window lines at HBlank, a pixel where one is due, else all. -/
theorem videoAct_video (hok : s.cfg.Ok) :
    (s.video.ly < 144 ∧ s.video.dot = 0 ∧ ¬PixelDue s ∧ ¬HblankDue s ∧
      ∃ l, (videoAct s).video = { newFrame s.video with winDrawn := false, sprites := l }) ∨
    (HblankDue s ∧ s.video.dot ≠ 0 ∧ ¬PixelDue s ∧ (videoAct s).video =
      { s.video with winLine := if s.video.winDrawn then s.video.winLine + 1 else s.video.winLine }) ∨
    (PixelDue s ∧ s.video.dot ≠ 0 ∧ ¬HblankDue s ∧ (videoAct s).video = (producePixel (column s) s).video) ∨
    (¬(s.video.ly < 144 ∧ s.video.dot = 0) ∧ ¬PixelDue s ∧ ¬HblankDue s ∧ (videoAct s).video = s.video) := by
  rcases videoAct_cases s hok with ⟨hv, hd, hp, hh, he⟩ | ⟨-, hd, hp, hh, he⟩ | ⟨hh, h0, -, hp, he⟩ | ⟨hp, h0, -, hh, he⟩ |
    ⟨hv, -, hp, hh, he⟩ | ⟨h0, -, hp, hh, he⟩ <;> rw [he]
  · exact .inl ⟨hv, hd, hp, hh, _, visibleLineStart_video s⟩
  · exact .inr (.inr (.inr ⟨by omega, hp, hh, rfl⟩))
  · exact .inr (.inl ⟨hh, h0, hp, hblank_video s⟩)
  · exact .inr (.inr (.inl ⟨hp, h0, hh, rfl⟩))
  · exact .inr (.inr (.inr ⟨by omega, hp, hh, vblankLineStart_video s⟩))
  · exact .inr (.inr (.inr ⟨by omega, hp, hh, rfl⟩))

theorem videoAct_winLine (hok : s.cfg.Ok) : (videoAct s).video.winLine = if s.video.ly = 0 ∧ s.video.dot = 0 then 0
    else if HblankDue s ∧ s.video.winDrawn = true then s.video.winLine + 1 else s.video.winLine := by
  rcases videoAct_video s hok with ⟨hv, hd, -, hh, l, he⟩ | ⟨hh, h0, -, he⟩ | ⟨-, h0, hh, he⟩ | ⟨hn, -, hh, he⟩ <;> rw [he]
  · by_cases hly : s.video.ly = 0
    · rw [newFrame_zero hly, if_pos ⟨hly, hd⟩]
    · rw [newFrame_later hly, if_neg fun h => hly h.1, if_neg fun h => hh h.1]
  · rw [if_neg (c := s.video.ly = 0 ∧ s.video.dot = 0) fun h => h0 h.2]
    simp only [eq_true hh, true_and]
  · rw [if_neg fun h => h0 h.2, if_neg fun h => hh h.1]
    rfl
  · rw [if_neg (by omega), if_neg fun h => hh h.1]

theorem videoAct_winDrawn (hok : s.cfg.Ok) : (videoAct s).video.winDrawn = if s.video.ly < 144 ∧ s.video.dot = 0 then false
    else if PixelDue s ∧ windowCovers s (column s) = true then true else s.video.winDrawn := by
  rcases videoAct_video s hok with ⟨hv, hd, -, hh, l, he⟩ | ⟨-, h0, hp, he⟩ | ⟨hp, h0, -, he⟩ | ⟨hn, hp, -, he⟩ <;> rw [he]
  · rw [if_pos ⟨hv, hd⟩]
  · dsimp only
    rw [if_neg fun h => h0 h.2, if_neg fun h => hp h.1]
  · rw [if_neg fun h => h0 h.2]
    change (s.video.winDrawn || windowCovers s (column s)) = _
    cases windowCovers s (column s) <;> simp [hp]
  · rw [if_neg hn, if_neg fun h => hp h.1]

theorem videoAct_pixel (hok : s.cfg.Ok) (h : PixelDue s) (i : Nat) : (videoAct s).video.frame.get i =
    if i = s.video.ly * 160 + column s then pixel s (column s) else s.video.frame.get i := by
  rcases videoAct_video s hok with ⟨-, -, hp, -⟩ | ⟨-, -, hp, -⟩ | ⟨-, -, -, he⟩ | ⟨-, hp, -⟩
  case inr.inr.inl => rw [he]; exact Frame.get_set _ _ _ _
  all_goals exact absurd h hp

theorem newFrame_frame (v : Video) : (newFrame v).frame = v.frame := by rw [newFrame_parts]

theorem videoAct_frame (hok : s.cfg.Ok) (h : ¬PixelDue s) : (videoAct s).video.frame = s.video.frame := by
  rcases videoAct_video s hok with ⟨-, -, -, -, l, he⟩ | ⟨-, -, -, he⟩ | ⟨hp, -⟩ | ⟨-, -, -, he⟩
  · rw [he]
    exact newFrame_frame _
  · rw [he]
  · exact absurd hp h
  · rw [he]

/-- A scratch buffer: cleared where a frame begins, and a bit of it set where a pixel is due. `buf` is the buffer, `b` the bit. -/
theorem videoAct_scratch (hok : s.cfg.Ok) {buf : Video → BitVec 160} {b : Bool}
    (hbegin : ∀ v l, buf { newFrame v with winDrawn := false, sprites := l } = if v.ly = 0 then 0 else buf v)
    (hwin : ∀ v n, buf { v with winLine := n } = buf v)
    (hpixel : buf (producePixel (column s) s).video = setColumn (buf s.video) (column s) b) {i : Nat} (hi : i < 160) :
    (buf (videoAct s).video).getLsbD i = if s.video.ly = 0 ∧ s.video.dot = 0 then false
      else if PixelDue s ∧ i = column s then b else (buf s.video).getLsbD i := by
  rcases videoAct_video s hok with ⟨hv, hd, hp, -, l, he⟩ | ⟨-, h0, hp, he⟩ | ⟨hp, h0, -, he⟩ | ⟨hn, hp, -, he⟩ <;> rw [he]
  · rw [hbegin]
    by_cases hly : s.video.ly = 0
    · rw [if_pos hly, if_pos ⟨hly, hd⟩]
      exact BitVec.getLsbD_zero
    · rw [if_neg hly, if_neg fun h => hly h.1, if_neg fun h => hp h.1]
  · rw [hwin, if_neg fun h => h0 h.2, if_neg fun h => hp h.1]
  · rw [hpixel, getLsbD_setColumn _ _ _ hi, if_neg (c := s.video.ly = 0 ∧ s.video.dot = 0) fun h => h0 h.2]
    simp only [eq_true hp, true_and]
  · rw [if_neg (by omega), if_neg fun h => hp h.1]

/-! ## Memory after a step -/

theorem videoAct_hblank (hok : s.cfg.Ok) (h : HblankDue s) : videoAct s = hblank s := by
  rcases videoAct_cases s hok with ⟨-, -, -, hh, -⟩ | ⟨-, -, -, hh, -⟩ | ⟨-, -, -, -, he⟩ | ⟨-, -, -, hh, -⟩ |
    ⟨-, -, -, hh, -⟩ | ⟨-, -, -, hh, -⟩
  case inr.inr.inl => exact he
  all_goals exact absurd h hh

theorem videoAct_elsewhere (hok : s.cfg.Ok) (h : ¬HblankDue s) : (videoAct s).hdma = s.hdma ∧ (videoAct s).rtc = s.rtc ∧
    ∀ k, k ≠ ioKey .stat → (videoAct s).cell k = s.cell k := by
  rcases videoAct_cases s hok with ⟨-, -, -, -, he⟩ | ⟨-, -, -, -, he⟩ | ⟨hh, -⟩ | ⟨-, -, -, -, he⟩ | ⟨-, -, -, -, he⟩ |
    ⟨-, -, -, -, he⟩
  · rw [he]
    exact ⟨by rw [visibleLineStart_parts], by rw [visibleLineStart_parts], fun k => visibleLineStart_cell s⟩
  · rw [he]
    exact ⟨rfl, rfl, fun k => setMode_cell s 3⟩
  · exact absurd hh h
  · rw [he]
    exact ⟨rfl, rfl, fun _ _ => rfl⟩
  · rw [he]
    exact ⟨by rw [vblankLineStart_parts], by rw [vblankLineStart_parts], fun k => vblankLineStart_cell s⟩
  · rw [he]
    exact ⟨rfl, rfl, fun _ _ => rfl⟩

/-! ## The statement -/

theorem windowCovers_iff (x : Nat) : windowCovers s x = true ↔
    (s.io .lcdc).getLsbD 5 = true ∧ (s.io .wy).toNat ≤ s.video.ly ∧ (s.io .wx).toNat ≤ x + 7 := by
  simp only [windowCovers, bit, Bool.and_eq_true, decide_eq_true_eq, and_assoc]

/-- The next position is all that an advance changes. -/
theorem videoAdvance_parts (u : State) : videoAdvance u =
    { u with video := { u.video with dot := (videoAdvance u).video.dot, ly := (videoAdvance u).video.ly } } := by
  unfold videoAdvance
  split <;> rfl

/-- Settles O49: a step is the action at its position, then the advance. -/
theorem scanlineStateMachine : Obligations.ScanlineStateMachine := by
  intro s hok hon t visible newFrame drawn x hb covered
  obtain ⟨hdot, hly, -⟩ := videoAct_counters s
  obtain ⟨hdot', hly', -⟩ := videoAdvance_counters (videoAct s)
  have ht : t = { videoAct s with video := { (videoAct s).video with dot := t.video.dot, ly := t.video.ly } } := by
    rw [show t = videoAdvance (videoAct s) from videoStep_on s hon]
    exact videoAdvance_parts _
  have hmem : t.mem = (videoAct s).mem := by rw [ht]
  have hcell : ∀ k, t.cell k = (videoAct s).cell k := fun k => by rw [State.cell, hmem]; rfl
  have hio : ∀ r, t.io r = (videoAct s).io r := fun r => hcell _
  have hcovers : windowCovers s x = true ↔ covered := windowCovers_iff s x
  refine ⟨?_, ?_, ?_, ?_, fun i hi => ?_, ?_, ?_, fun h => ?_, fun h => ?_, fun h i => ?_, fun h => ?_, fun i hi => ?_,
    fun i hi => ?_⟩
  · rw [show t = videoAdvance (videoAct s) from videoStep_on s hon, hdot', hdot]
  · rw [show t = videoAdvance (videoAct s) from videoStep_on s hon, hly', hdot, hly]
  · rw [statMode, hio]
    exact videoAct_statMode s hok
  · rw [hio]
    exact videoAct_match s hok
  · rw [hio]
    exact videoAct_enables s hok hi
  · rw [ht]
    exact videoAct_winLine s hok
  · rw [ht]
    simp only [← hcovers]
    exact videoAct_winDrawn s hok
  · rw [ht, videoAct_hblank s hok h]
    exact hblank_dma s
  · obtain ⟨hhdma, hrtc, hcells⟩ := videoAct_elsewhere s hok h
    rw [ht]
    exact ⟨hhdma, hrtc, hcells⟩
  · rw [ht]
    exact videoAct_pixel s hok h i
  · rw [ht]
    exact videoAct_frame s hok h
  · rw [ht]
    exact videoAct_scratch s hok (buf := Video.bgPriority) (by intro v l; unfold Machine.newFrame; split <;> rfl)
      (fun _ _ => rfl) rfl hi
  · rw [ht]
    exact videoAct_scratch s hok (buf := Video.bgDrawn) (by intro v l; unfold Machine.newFrame; split <;> rfl)
      (fun _ _ => rfl) rfl hi

end Sys2Proof.Machine
end

section
/-! The sprites (60_exceptions.md rules R337, R344): the list of a line as the first ten of those that cover it, the sprite of a
column as the least of those with a pixel there, and a sprite's pixel. -/

namespace Sys2Proof.Machine

variable (s : State)

/-! ## The list of a line -/

/-- The first ten below 40 of a property: they rise, they have it, and one left out comes after ten others. -/
theorem firstTen (P : Nat → Bool) : let l := ((List.range 40).filter P).take 10
    l.Pairwise (· < ·) ∧ l.length ≤ 10 ∧ (∀ k ∈ l, k < 40 ∧ P k = true) ∧
    ∀ k < 40, P k = true → k ∉ l → l.length = 10 ∧ ∀ j ∈ l, j < k := by
  intro l
  have hsorted : ((List.range 40).filter P).Pairwise (· < ·) := List.pairwise_lt_range.filter P
  refine ⟨hsorted.sublist (List.take_sublist _ _), List.length_take_le _ _, fun k hk => ?_, fun k hk hP hout => ?_⟩
  · obtain ⟨hrange, hP⟩ := List.mem_filter.1 (List.mem_of_mem_take hk)
    exact ⟨List.mem_range.1 hrange, hP⟩
  · have hmem : k ∈ (List.range 40).filter P := List.mem_filter.2 ⟨List.mem_range.2 hk, hP⟩
    rw [← List.take_append_drop 10 ((List.range 40).filter P), List.pairwise_append] at hsorted
    have hdrop : k ∈ ((List.range 40).filter P).drop 10 := by
      rw [← List.take_append_drop 10 ((List.range 40).filter P)] at hmem
      exact (List.mem_append.1 hmem).resolve_left hout
    have hlen := List.length_pos_of_mem hdrop
    rw [List.length_drop] at hlen
    exact ⟨List.length_take_of_le (by omega), fun j hj => hsorted.2.2 j hj k hdrop⟩

theorem spriteOnLine_iff (k : Nat) : spriteOnLine s k = true ↔ CoversLine s k := by
  simp only [spriteOnLine, Bool.and_eq_true, decide_eq_true_eq]
  rfl

/-- The line compare before the scan touches nothing the scan reads. -/
theorem oamScan_lineBegun : oamScan (lineCompare (lineBegun s)) = oamScan s := by
  have hcell : ∀ k, k ≠ ioKey .stat → (lineCompare (lineBegun s)).cell k = s.cell k := fun k hk => lineCompare_cell _ hk
  have hoam : ∀ i < 160, oamByte (lineCompare (lineBegun s)) i = oamByte s i := fun i hi =>
    hcell _ (by simp only [oamKey, ioKey, IoReg.offset]; omega)
  have hlcdc : (lineCompare (lineBegun s)).io .lcdc = s.io .lcdc := hcell _ (by decide)
  have hly : (lineCompare (lineBegun s)).video.ly = s.video.ly := by
    rw [lineCompare_video]
    change (newFrame s.video).ly = _
    rw [newFrame_parts]
  unfold oamScan
  refine congrArg (List.take 10) (List.filter_congr fun k hk => ?_)
  have hk := List.mem_range.1 hk
  simp only [spriteOnLine, spriteHeight, hoam (4 * k) (by omega), hlcdc, hly]
  rfl

theorem videoAct_sprites (hok : s.cfg.Ok) : (videoAct s).video.sprites =
    if s.video.ly < 144 ∧ s.video.dot = 0 then oamScan s else s.video.sprites := by
  rcases videoAct_cases s hok with ⟨hv, hd, -, -, he⟩ | ⟨-, hd, -, -, he⟩ | ⟨-, h0, -, -, he⟩ | ⟨-, h0, -, -, he⟩ |
    ⟨hv, -, -, -, he⟩ | ⟨h0, -, -, -, he⟩ <;> rw [he]
  · rw [visibleLineStart_video, if_pos ⟨hv, hd⟩]
    exact oamScan_lineBegun s
  · rw [if_neg (by omega)]
    rfl
  · rw [hblank_video]
    exact (if_neg fun h => h0 h.2).symm
  · rw [if_neg fun h => h0 h.2]
    rfl
  · rw [vblankLineStart_video, if_neg fun h => hv h.1]
  · rw [if_neg fun h => h0 h.2]

/-! ## The sprite of a column -/

/-- The smaller X, then the smaller OAM index (R344). -/
def SpritePixel.Before (p q : SpritePixel) : Prop := p.x < q.x ∨ (p.x = q.x ∧ p.k ≤ q.k)

theorem SpritePixel.Before.trans {p q r : SpritePixel} (h : p.Before q) (h' : q.Before r) : p.Before r := by
  unfold Before at *
  omega

theorem betterSprite_spec (p q : SpritePixel) : (betterSprite p q = p ∨ betterSprite p q = q) ∧
    (betterSprite p q).Before p ∧ (betterSprite p q).Before q := by
  unfold betterSprite SpritePixel.Before
  split
  · exact ⟨.inr rfl, by omega, by omega⟩
  · exact ⟨.inl rfl, by omega, by omega⟩

variable {s} {x : Nat}

/-- A sprite's pixel, its colour index `colourIndex` of its tile row. -/
theorem spritePixel_eq {k : Nat} : let sx := spriteByte s k 1
    let attr : Byte := s.cell (oamKey (4 * k + 3))
    let idx := colourIndex s (if s.cfg.cgb && bit attr 3 then 1 else 0) (spriteRow s k attr)
      (if attr.getLsbD 5 then x + 8 - sx else 7 - (x + 8 - sx))
    spritePixel s x k = if sx ≤ x + 8 ∧ x + 8 < sx + 8 ∧ idx ≠ 0 then
      some { x := sx, k := k, attr := attr, sidx := idx } else none := by
  intro sx attr idx
  change (if sx ≤ x + 8 ∧ x + 8 < sx + 8 then
    (if idx = 0 then none else some { x := sx, k := k, attr := attr, sidx := idx }) else none : Option SpritePixel) = _
  by_cases hx : sx ≤ x + 8 ∧ x + 8 < sx + 8 <;> by_cases hi : idx = 0 <;> simp [hx, hi]

theorem spritePixel_k {k : Nat} {p : SpritePixel} (h : spritePixel s x k = some p) : p.k = k := by
  simp only [spritePixel_eq, Option.ite_none_right_eq_some, Option.some.injEq] at h
  obtain ⟨-, rfl⟩ := h
  rfl

theorem bestSprite_none (l : List Nat) : bestSprite s x l = none ↔ ∀ k ∈ l, spritePixel s x k = none := by
  induction l with
  | nil => simp [bestSprite]
  | cons k rest ih =>
    rw [List.forall_mem_cons, ← ih, bestSprite]
    cases spritePixel s x k <;> cases bestSprite s x rest <;> simp

/-- `p` is the pixel of a sprite of the list before which there is none. -/
def IsBest (s : State) (x : Nat) (l : List Nat) (p : SpritePixel) : Prop :=
  p.k ∈ l ∧ spritePixel s x p.k = some p ∧ ∀ k ∈ l, ∀ q, spritePixel s x k = some q → p.Before q

theorem isBest_of_bestSprite {l : List Nat} {p : SpritePixel} (h : bestSprite s x l = some p) : IsBest s x l p := by
  induction l generalizing p with
  | nil => cases h
  | cons k rest ih =>
    rw [bestSprite] at h
    cases hk : spritePixel s x k with
    | none =>
      rw [hk] at h
      obtain ⟨hmem, hp, hbest⟩ := ih h
      refine ⟨.tail _ hmem, hp, List.forall_mem_cons.2 ⟨fun q hq => ?_, hbest⟩⟩
      cases hk.symm.trans hq
    | some a =>
      rw [hk] at h
      have ha := spritePixel_k hk
      cases hrest : bestSprite s x rest with
      | none =>
        rw [hrest] at h
        cases h
        have hnone := (bestSprite_none rest).1 hrest
        refine ⟨ha ▸ List.mem_cons_self, ha ▸ hk, List.forall_mem_cons.2 ⟨fun q hq => ?_, fun j hj q hq => ?_⟩⟩
        · rw [hk] at hq
          cases hq
          exact .inr ⟨rfl, le_rfl⟩
        · rw [hnone j hj] at hq
          cases hq
      | some b =>
        rw [hrest] at h
        cases h
        obtain ⟨hmem, hb, hbest⟩ := ih hrest
        obtain ⟨heither, hfirst, hsecond⟩ := betterSprite_spec a b
        have hall : ∀ j ∈ k :: rest, ∀ q, spritePixel s x j = some q → (betterSprite a b).Before q :=
          List.forall_mem_cons.2 ⟨fun q hq => Option.some.inj (hk.symm.trans hq) ▸ hfirst,
            fun j hj q hq => hsecond.trans (hbest j hj q hq)⟩
        rcases heither with he | he <;> rw [he] at hall ⊢
        · exact ⟨ha ▸ List.mem_cons_self, ha ▸ hk, hall⟩
        · exact ⟨.tail _ hmem, hb, hall⟩

theorem bestSprite_some {l : List Nat} {p : SpritePixel} : bestSprite s x l = some p ↔ IsBest s x l p := by
  refine ⟨isBest_of_bestSprite, fun ⟨hmem, hp, hbest⟩ => ?_⟩
  cases hl : bestSprite s x l with
  | none =>
    rw [(bestSprite_none l).1 hl p.k hmem] at hp
    cases hp
  | some q =>
    obtain ⟨hmem', hq, hbest'⟩ := isBest_of_bestSprite hl
    have hpq := hbest q.k hmem' q hq
    have hqp := hbest' p.k hmem p hp
    have hk : q.k = p.k := by
      unfold SpritePixel.Before at hpq hqp
      omega
    rw [hk, hp] at hq
    exact hq.symm

/-! ## The pixel of a sprite -/

/-- Within its lines a sprite's row and tile number give its address as they are: no address wraps. -/
theorem spriteRow_covering {k : Nat} (h : CoversLine s k) (attr : Byte) : spriteRow s k attr = 0x8000 +
    16 * (if (s.io .lcdc).getLsbD 2 = true then spriteByte s k 2 / 2 * 2 else spriteByte s k 2) +
    2 * (if attr.getLsbD 6 then (if (s.io .lcdc).getLsbD 2 = true then 15 else 7) - (s.video.ly + 16 - spriteByte s k 0)
      else s.video.ly + 16 - spriteByte s k 0) := by
  have ht : spriteByte s k 2 < 256 := (s.cell _).isLt
  obtain ⟨hlo, hhi⟩ := h
  have hy : (oamByte s (4 * k)).toNat = spriteByte s k 0 := rfl
  have htile : (oamByte s (4 * k + 2)).toNat = spriteByte s k 2 := rfl
  simp only [spriteRow, spriteHeight, bit, hy, htile]
  rcases Bool.eq_false_or_eq_true ((s.io .lcdc).getLsbD 2) with h2 | h2 <;>
    rcases Bool.eq_false_or_eq_true (attr.getLsbD 6) with h6 | h6 <;>
    simp only [h2, h6, if_true, Bool.false_eq_true, if_false] at hhi ⊢ <;> omega

/-- Settles O50: the list is that of `firstTen`, the sprite of a column that of `bestSprite_some`. -/
theorem sprites : Obligations.Sprites := by
  refine ⟨?_, fun s x p => ?_, fun s x => ?_, ?_⟩
  · intro s hok hon l
    have hl : l = (videoAct s).video.sprites := by
      rw [show l = (videoAdvance (videoAct s)).video.sprites from congrArg (·.video.sprites) (videoStep_on s hon)]
      exact (videoAdvance_counters _).2.2
    rw [hl, videoAct_sprites s hok]
    refine ⟨fun h => if_neg h, fun hv hd => ?_⟩
    rw [if_pos ⟨hv, hd⟩]
    simp only [← spriteOnLine_iff]
    exact firstTen (spriteOnLine s)
  · unfold spriteAt
    split
    · next h =>
      rw [bestSprite_some]
      exact (and_iff_right h).symm
    · next h => exact ⟨nofun, fun h' => absurd h'.1 h⟩
  · unfold spriteAt
    split
    · next h =>
      rw [bestSprite_none, or_iff_right (by simpa [bit] using h)]
    · next h => exact iff_of_true rfl (.inl (Bool.not_eq_true _ ▸ h))
  · intro s x k h sx attr tall r row n b plane idx
    rw [spritePixel_eq, spriteRow_covering h]
    have hbank : (if (s.cfg.cgb && bit attr 3) = true then 1 else 0) =
        if s.cfg.cgb = true ∧ attr.getLsbD 3 = true then 1 else 0 := by
      simp only [Bool.and_eq_true]
      rfl
    rw [hbank]
    rfl

end Sys2Proof.Machine
end

section
/-! The pixel at a column (60_exceptions.md rules R343 to R345): the map position, the tile row, the colours as numbers. -/

namespace Sys2Proof.Machine

variable (s : State) (x : Nat)

/-! ## The map position and the tile data -/

theorem mapPos_px : (mapPos s x).px =
    if windowCovers s x = true then x + 7 - (s.io .wx).toNat else (x + (s.io .scx).toNat) % 256 := by
  unfold mapPos
  split <;> rfl

theorem mapPos_py : (mapPos s x).py =
    if windowCovers s x = true then s.video.winLine else (s.video.ly + (s.io .scy).toNat) % 256 := by
  unfold mapPos
  split <;> rfl

theorem mapPos_base : (mapPos s x).base =
    if (windowCovers s x = true ∧ (s.io .lcdc).getLsbD 6 = true) ∨
      (¬windowCovers s x = true ∧ (s.io .lcdc).getLsbD 3 = true) then 0x9C00 else 0x9800 := by
  unfold mapPos bit
  by_cases hwin : windowCovers s x = true <;> simp [hwin]

theorem tileData_eq (t : Byte) : tileData s t =
    (if (s.io .lcdc).getLsbD 4 = true then 0x8000 + 16 * (t.toNat : Int) else 0x9000 + 16 * t.toInt).toNat := by
  have ht := t.isLt
  have hsigned : t.toInt = if t.toNat < 128 then (t.toNat : Int) else t.toNat - 256 := by
    rw [BitVec.toInt_eq_toNat_cond]
    split <;> split <;> omega
  rw [tileData, bit]
  split
  · omega
  · rw [hsigned]
    split <;> omega

/-- The colour index of a row as the sum of its two planes. -/
theorem colourIndex_eq (bank n b : Nat) : colourIndex s bank n b =
    (if (s.cell (vramKey bank (n + 1))).getLsbD b then 2 else 0) + (if (s.cell (vramKey bank n)).getLsbD b then 1 else 0) := by
  rw [colourIndex, bitNat, bitNat, ite_mul, one_mul, zero_mul]
  rfl

/-! ## Colours -/

theorem gray_eq (c : Params) (g : Nat) :
    gray c g = if g = 0 then c.gray0 else if g = 1 then c.gray1 else if g = 2 then c.gray2 else c.gray3 := by
  rcases g with _ | _ | _ | g <;> rfl

theorem toNat_channelByte (v : BitVec 5) : (channelByte v).toNat = (v.toNat * 255 + 15) / 31 := by
  have hv := v.isLt
  rw [channelByte, BitVec.toNat_ofNat]
  omega

/-- The colour of an entry as a number: its three channels, 5 bits each, the low one first (R345). -/
theorem rgbaOf_eq (hi lo : Byte) : let c := hi.toNat * 256 + lo.toNat
    let byte := fun (v : Nat) => (v % 32 * 255 + 15) / 31
    rgbaOf (join16 hi lo) = BitVec.ofNat 32 (((byte c * 256 + byte (c / 32)) * 256 + byte (c / 1024)) * 256 + 0xFF) := by
  intro c byte
  refine BitVec.eq_of_toNat_eq ?_
  have hc : (join16 hi lo).toNat = c := toNat_join16 hi lo
  rw [rgbaOf, toNat_append_eq, toNat_append_eq, toNat_append_eq, toNat_channelByte, toNat_channelByte, toNat_channelByte,
    toNat_field, toNat_field, toNat_field, hc, BitVec.toNat_ofNat, show (0xFF : Byte).toNat = 0xFF from rfl]
  have hbyte : ∀ v, byte v < 256 := fun v => by
    simp only [byte]
    omega
  have h0 := hbyte c
  have h1 := hbyte (c / 32)
  have h2 := hbyte (c / 1024)
  refine (Nat.mod_eq_of_lt ?_).symm.trans (congrArg (· % 2 ^ 32) ?_)
  · show ((byte (c / 2 ^ 0) * 2 ^ 8 + byte (c / 32)) * 2 ^ 8 + byte (c / 1024)) * 2 ^ 8 + 0xFF < 2 ^ 32
    rw [pow_zero, Nat.div_one]
    omega
  · show ((byte (c / 2 ^ 0) * 2 ^ 8 + byte (c / 32)) * 2 ^ 8 + byte (c / 1024)) * 2 ^ 8 + 0xFF = _
    rw [pow_zero, Nat.div_one]
    rfl

/-! ## The statement -/

/-- Settles O51: each part of the computation by its equation, then the choice between the background and the sprite. -/
theorem pixelOutput : Obligations.PixelOutput := by
  intro s x lcdc win px py map entry tile attr d index grayOf rgb
  have hwin : windowCovers s x = true ↔ win := windowCovers_iff s x
  have hpx : (mapPos s x).px = px := (mapPos_px s x).trans (if_congr hwin rfl rfl)
  have hpy : (mapPos s x).py = py := (mapPos_py s x).trans (if_congr hwin rfl rfl)
  have hmap : (mapPos s x).base = map := (mapPos_base s x).trans (if_congr (by rw [hwin]) rfl rfl)
  have hentry : (mapPos s x).entry = entry := by rw [MapPos.entry, hmap, hpx, hpy]
  have hindex : ∀ bank row b,
      colourIndex s bank (tileData s (vramByte s 0 (mapPos s x).entry) + 2 * row) b = index bank row b := fun bank row b => by
    rw [hentry, tileData_eq, colourIndex_eq]
    rfl
  have hgray : ∀ pal i, gray s.cfg (shade pal i) = grayOf pal i := fun pal i => gray_eq _ _
  have hrgb : ∀ key p i, palColour s key p i = rgb key p i := fun key p i => rgbaOf_eq _ _
  have hattr : mapAttr s (mapPos s x) = attr := by
    rw [mapAttr, hentry]
    rfl
  refine ⟨fun hmono => ?_, fun hcolour => ?_⟩
  · intro idx
    have hidx : bgIndexMono s x = idx := by
      simp only [bgIndexMono, hindex, hpx, hpy]
      rfl
    refine ⟨?_, ?_, fun hnone => ?_, fun p hsome => ?_⟩
    · simp only [bgNonZero, hmono, Bool.false_eq_true, if_false, hidx]
    · rw [bgOnTop, hmono]
      rfl
    · simp only [pixel, hmono, Bool.false_eq_true, if_false, pixelMono, hnone, hidx, hgray]
    · simp only [pixel, hmono, Bool.false_eq_true, if_false, pixelMono, hsome, hidx, hgray, bit, Bool.and_eq_true,
        decide_eq_true_eq]
      rfl
  · intro idx
    have hidx : bgIndexColour s x = idx := by
      simp only [bgIndexColour, hindex, hpx, hpy, hattr]
      rfl
    refine ⟨?_, ?_, fun hnone => ?_, fun p hsome => ?_⟩
    · simp only [bgNonZero, hcolour, if_true, hidx]
    · rw [bgOnTop, hcolour, hattr]
      rfl
    · simp only [pixel, hcolour, if_true, pixelColour, hnone, hidx, hattr, hrgb]
    · simp only [pixel, hcolour, if_true, pixelColour, hsome, hidx, hattr, hrgb, bit, Bool.and_eq_true, Bool.or_eq_true,
        decide_eq_true_eq, and_assoc]
      rfl

end Sys2Proof.Machine
end

section
/-! The channels' samples and the mix (60_exceptions.md rules R353, R355). -/

namespace Sys2Proof.Machine

variable (s : State)

/-! ## The samples -/

/-- The duty rows digit by digit, phase 0 first. -/
def dutyDigits : List (List Nat) :=
  [[0, 0, 0, 0, 0, 0, 0, 1], [1, 0, 0, 0, 0, 0, 0, 1], [1, 0, 0, 0, 0, 1, 1, 1], [0, 1, 1, 1, 1, 1, 1, 0]]

theorem dutyRow_digits : ∀ (d : BitVec 2) (p : BitVec 3),
    (dutyRow d).getLsbD (7 - p.toNat) = true ↔ (dutyDigits.getD d.toNat []).getD p.toNat 0 = 1 := by decide

theorem toNat_dutyCode (v : Byte) : (v.extractLsb' 6 2).toNat = v.toNat / 64 := by
  have hv := v.isLt
  rw [toNat_field]
  omega

theorem pulseOut_eq (nr1 : Byte) (ch : Channel 3) (env : Envelope) : pulseOut nr1 ch env =
    if (dutyDigits.getD (nr1.toNat / 64) []).getD ch.phase.toNat 0 = 1 then env.vol.toNat else 0 := by
  rw [pulseOut, ← toNat_dutyCode]
  exact if_congr (dutyRow_digits _ _) rfl rfl

theorem waveIndex : ∀ i : BitVec 5, i.extractLsb' 1 4 = BitVec.ofNat 4 (i.toNat / 2) ∧
    (i.getLsbD 0 = true ↔ ¬i.toNat % 2 = 0) := by decide

theorem waveSample_eq (i : BitVec 5) : waveSample s i =
    if i.toNat % 2 = 0 then (s.io (.wave (BitVec.ofNat 4 (i.toNat / 2)))).toNat / 16
    else (s.io (.wave (BitVec.ofNat 4 (i.toNat / 2)))).toNat % 16 := by
  obtain ⟨hbyte, hnibble⟩ := waveIndex i
  simp only [waveSample, hbyte, hnibble, ite_not]

/-- The shift of each code (R353). -/
theorem waveShift : ∀ (code : BitVec 2) (n : Nat), n / 2 ^ ([4, 0, 1, 2].getD code.toNat 0) =
    if code = 0 then n / 16 else if code = 1 then n else if code = 2 then n / 2 else n / 4 := by
  intro code n
  match code with
  | 0 | 2 | 3 => rfl
  | 1 => exact Nat.div_one n

theorem toNat_waveCode (v : Byte) : (v.extractLsb' 5 2).toNat = v.toNat / 32 % 4 := toNat_field v 5 2

theorem waveOut_eq : waveOut s = waveSample s s.audio.ch3.phase / 2 ^ ([4, 0, 1, 2].getD ((s.io .nr32).toNat / 32 % 4) 0) := by
  rw [← toNat_waveCode, waveShift]
  rfl

theorem pulseOut_le (nr1 : Byte) (ch : Channel 3) (env : Envelope) : pulseOut nr1 ch env ≤ 15 := by
  have hvol := env.vol.isLt
  unfold pulseOut
  split <;> omega

theorem waveOut_le : waveOut s ≤ 15 := by
  have hsample : waveSample s s.audio.ch3.phase ≤ 15 := by
    have hbyte := (s.io (.wave (s.audio.ch3.phase.extractLsb' 1 4))).isLt
    unfold waveSample
    dsimp only
    split <;> omega
  rw [waveOut_eq]
  exact (Nat.div_le_self _ _).trans hsample

theorem noiseOut_le (ch : Channel 15) (env : Envelope) : noiseOut ch env ≤ 15 := by
  have hvol := env.vol.isLt
  unfold noiseOut
  split <;> omega

/-! ## The mix -/

theorem routed_eq (on pan : Bool) (n : Nat) : routed on pan n = if on = true ∧ pan = true then n else 0 := by
  simp only [routed, Bool.and_eq_true]

theorem routed_le (on pan : Bool) {n : Nat} (h : n ≤ 15) : routed on pan n ≤ 15 := by
  unfold routed
  split <;> omega

theorem sideSum_le (i : Nat) : sideSum s i ≤ 60 := by
  have h1 := routed_le s.audio.ch1.on (bit (s.io .nr51) i) (pulseOut_le (s.io .nr11) s.audio.ch1 s.audio.env1)
  have h2 := routed_le s.audio.ch2.on (bit (s.io .nr51) (i + 1)) (pulseOut_le (s.io .nr21) s.audio.ch2 s.audio.env2)
  have h3 := routed_le s.audio.ch3.on (bit (s.io .nr51) (i + 2)) (waveOut_le s)
  have h4 := routed_le s.audio.ch4.on (bit (s.io .nr51) (i + 3)) (noiseOut_le s.audio.ch4 s.audio.env4)
  unfold sideSum
  omega

/-- A side scaled by a 3-bit volume. -/
theorem scaled_le {n k : Nat} (hn : n ≤ 60) (hk : k < 8) : n * k / 7 ≤ 60 := by
  have hmul : n * k ≤ 60 * 7 := Nat.mul_le_mul hn (by omega)
  omega

theorem mixLeft_le : mixLeft s ≤ 60 := by
  unfold mixLeft
  split
  · exact scaled_le (sideSum_le s 4) (Nat.mod_lt _ (by decide))
  · exact Nat.zero_le _

theorem mixRight_le : mixRight s ≤ 60 := by
  unfold mixRight
  split
  · exact scaled_le (sideSum_le s 0) (Nat.mod_lt _ (by decide))
  · exact Nat.zero_le _

/-- Settles O54: each sample by its equation, the sides as the sums of the routed samples. -/
theorem mixing : Obligations.Mixing := by
  intro s duty pulse i w out1 out2 out3 out4 pan side t
  have h1 : pulseOut (s.io .nr11) s.audio.ch1 s.audio.env1 = out1 := pulseOut_eq _ _ _
  have h2 : pulseOut (s.io .nr21) s.audio.ch2 s.audio.env2 = out2 := pulseOut_eq _ _ _
  have h3 : waveOut s = out3 := by
    rw [waveOut_eq, waveSample_eq]
  have h4 : noiseOut s.audio.ch4 s.audio.env4 = out4 := rfl
  have hside : ∀ n, sideSum s n = side n := fun n => by
    simp only [sideSum, routed_eq, h1, h2, h3, h4]
    rfl
  rw [← h1, ← h2, ← h3, ← h4]
  simp only [← hside]
  refine ⟨pulseOut_le _ _ _, pulseOut_le _ _ _, waveOut_le s, noiseOut_le _ _, fun hon => ⟨if_pos hon, if_pos hon⟩,
    fun hoff => ?_, sideSum_le s 0, sideSum_le s 4, mixLeft_le s, mixRight_le s, _, audioStep_pairs s⟩
  exact ⟨if_neg (by simp [hoff]), if_neg (by simp [hoff])⟩

end Sys2Proof.Machine
end

section
/-! An audio step (60_exceptions.md rules R351 to R353): the length, sweep and envelope steps each as what they leave, the frame
sequencer as the three in turn, then the ticks of the channels. -/

namespace Sys2Proof.Machine

variable (s : State) {w : Nat}

/-! ## The length step -/

/-- A channel after the length step, where the divisor selects the tick. -/
def lengthDue (r : IoReg) (ch : Channel w) : Channel w :=
  if s.audio.fs.toNat % s.cfg.lenDiv = 0 then lengthTick (bit (s.io r) 6) ch else ch

theorem onDivisor_lengthStep : onDivisor s.cfg.lenDiv lengthStep s = { s with audio := { s.audio with
    ch1 := lengthDue s .nr14 s.audio.ch1, ch2 := lengthDue s .nr24 s.audio.ch2
    ch3 := lengthDue s .nr34 s.audio.ch3, ch4 := lengthDue s .nr44 s.audio.ch4 } } := by
  unfold onDivisor lengthDue
  split <;> rfl

/-- The length counter of a channel goes down. -/
abbrev LengthCounts (r : IoReg) (n : Nat) : Prop :=
  s.audio.fs.toNat % s.cfg.lenDiv = 0 ∧ (s.io r).getLsbD 6 = true ∧ 0 < n

theorem lengthDue_eq (r : IoReg) (ch : Channel w) : lengthDue s r ch =
    if LengthCounts s r ch.length then { ch with length := ch.length - 1, on := ch.on && decide (ch.length ≠ 1) } else ch := by
  unfold lengthDue lengthTick LengthCounts bit
  by_cases hdue : s.audio.fs.toNat % s.cfg.lenDiv = 0 <;> simp [hdue]

theorem lengthDue_length (r : IoReg) (ch : Channel w) :
    (lengthDue s r ch).length = if LengthCounts s r ch.length then ch.length - 1 else ch.length := by
  rw [lengthDue_eq]
  split <;> rfl

theorem lengthDue_on (r : IoReg) (ch : Channel w) : (lengthDue s r ch).on = true ↔
    ch.on = true ∧ ¬(LengthCounts s r ch.length ∧ ch.length = 1) := by
  rw [lengthDue_eq]
  split
  · next h => simp only [Bool.and_eq_true, decide_eq_true_eq, eq_true h, true_and, ne_eq]
  · next h => simp only [eq_false h, false_and, not_false_eq_true, and_true]

theorem lengthDue_counter (r : IoReg) (ch : Channel w) :
    (lengthDue s r ch).timer = ch.timer ∧ (lengthDue s r ch).phase = ch.phase := by
  rw [lengthDue_eq]
  split <;> exact ⟨rfl, rfl⟩

/-! ## The sweep step -/

theorem disableIf_false (ch : Channel w) : disableIf false ch = ch := by
  rw [disableIf, Bool.not_false, Bool.and_true]

theorem disableIf_on (p : Prop) [Decidable p] (ch : Channel w) :
    (disableIf (decide p) ch).on = true ↔ ch.on = true ∧ ¬p := by
  simp [disableIf]

/-- The period the sweep computes. -/
def newPeriod : Nat := sweepTarget (s.io .nr10) s.audio.sweep.shadow

/-- The sweep step acts on the tick and has a period. -/
abbrev SweepDue : Prop := s.audio.fs.toNat % s.cfg.sweepDiv = 0 ∧ (s.io .nr10).toNat / 16 % 8 ≠ 0

/-- The sweep's counter expires with a period beyond 2047. -/
abbrev SweepOverflows : Prop := SweepDue s ∧ s.audio.sweep.count ≤ 1 ∧ 2047 < newPeriod s

/-- The sweep's counter expires with a period that is taken over. -/
abbrev SweepMoves : Prop := SweepDue s ∧ s.audio.sweep.count ≤ 1 ∧ newPeriod s ≤ 2047 ∧ (s.io .nr10).toNat % 8 ≠ 0

/-- The sweep after the step. -/
def swept : Sweep where
  shadow := if SweepMoves s then BitVec.ofNat 11 (newPeriod s) else s.audio.sweep.shadow
  count := if SweepDue s then (if s.audio.sweep.count ≤ 1 then (s.io .nr10).toNat / 16 % 8 else s.audio.sweep.count - 1)
    else s.audio.sweep.count

/-- Memory after the step: the period registers of channel 1 where the sweep moves. -/
def sweptMemory : Memory := if SweepMoves s then (setPeriod1 (BitVec.ofNat 11 (newPeriod s)) s).mem else s.mem

/-- The state with another sweep. -/
def State.withSweep (x : Sweep) : State := { s with audio := { s.audio with sweep := x } }

theorem sweepStep_eq : sweepStep s = if (s.io .nr10).toNat / 16 % 8 = 0 then s
    else if s.audio.sweep.count ≤ 1 then
      sweepFire (s.withSweep { s.audio.sweep with count := (s.io .nr10).toNat / 16 % 8 })
    else s.withSweep { s.audio.sweep with count := s.audio.sweep.count - 1 } := rfl

theorem sweepFire_eq (n : Nat) : sweepFire (s.withSweep { s.audio.sweep with count := n }) =
    if 2047 < newPeriod s then
      { s.withSweep { s.audio.sweep with count := n } with
        audio := { s.audio with ch1 := disableIf true s.audio.ch1, sweep := { s.audio.sweep with count := n } } }
    else if (s.io .nr10).toNat % 8 ≠ 0 then
      setPeriod1 (BitVec.ofNat 11 (newPeriod s)) (s.withSweep { shadow := BitVec.ofNat 11 (newPeriod s), count := n })
    else s.withSweep { s.audio.sweep with count := n } := rfl

theorem onDivisor_sweepStep_idle (h : ¬SweepDue s) : onDivisor s.cfg.sweepDiv sweepStep s = s := by
  unfold onDivisor
  split
  · next hdiv => exact (sweepStep_eq s).trans (if_pos (not_not.1 fun hperiod => h ⟨hdiv, hperiod⟩))
  · rfl

theorem onDivisor_sweepStep : onDivisor s.cfg.sweepDiv sweepStep s = { s with
    mem := sweptMemory s
    audio := { s.audio with ch1 := disableIf (decide (SweepOverflows s)) s.audio.ch1, sweep := swept s } } := by
  unfold sweptMemory swept
  by_cases hdue : SweepDue s
  · obtain ⟨hdiv, hperiod⟩ := id hdue
    rw [onDivisor, if_pos hdiv, sweepStep_eq, if_neg hperiod]
    by_cases hcount : s.audio.sweep.count ≤ 1
    · rw [if_pos hcount, sweepFire_eq]
      by_cases hover : 2047 < newPeriod s
      · have hmoves : ¬SweepMoves s := fun h => by omega
        have hoverflows : SweepOverflows s := ⟨hdue, hcount, hover⟩
        simp only [if_pos hover, if_neg hmoves, if_pos hdue, if_pos hcount, decide_eq_true hoverflows]
        rfl
      · have hoverflows : ¬SweepOverflows s := fun h => hover h.2.2
        rw [decide_eq_false hoverflows, disableIf_false, if_neg hover]
        by_cases hshift : (s.io .nr10).toNat % 8 = 0
        · have hmoves : ¬SweepMoves s := fun h => h.2.2.2 hshift
          simp only [if_neg (not_not.2 hshift), if_neg hmoves, if_pos hdue, if_pos hcount]
          rfl
        · have hmoves : SweepMoves s := ⟨hdue, hcount, by omega, hshift⟩
          simp only [if_pos hshift, if_pos hmoves, if_pos hdue, if_pos hcount]
          rfl
    · have hmoves : ¬SweepMoves s := fun h => hcount h.2.1
      have hoverflows : ¬SweepOverflows s := fun h => hcount h.2.1
      simp only [if_neg hcount, if_neg hmoves, if_pos hdue, decide_eq_false hoverflows, disableIf_false]
      rfl
  · have hmoves : ¬SweepMoves s := fun h => hdue h.1
    have hoverflows : ¬SweepOverflows s := fun h => hdue h.1
    rw [onDivisor_sweepStep_idle s hdue]
    simp only [if_neg hmoves, if_neg hdue, decide_eq_false hoverflows, disableIf_false]

theorem toNat_swept_shadow :
    (swept s).shadow.toNat = if SweepMoves s then newPeriod s else s.audio.sweep.shadow.toNat := by
  unfold swept
  dsimp only
  split
  · next h => rw [BitVec.toNat_ofNat]; omega
  · rfl

/-! ## The period registers of channel 1 -/

/-- The state with another memory. -/
def State.withMem (m : Memory) : State := { s with mem := m }

theorem sweptMemory_cell {k : Nat} (h3 : k ≠ ioKey .nr13) (h4 : k ≠ ioKey .nr14) :
    (s.withMem (sweptMemory s)).cell k = s.cell k := by
  unfold sweptMemory
  split
  · exact (State.cell_setCell_ne (s.setIo .nr13 _) _ h4).trans (State.cell_setCell_ne s _ h3)
  · rfl

theorem sweptMemory_io (r : IoReg) : (s.withMem (sweptMemory s)).io r = if SweepMoves s then
    (setPeriod1 (BitVec.ofNat 11 (newPeriod s)) s).io r else s.io r := by
  unfold sweptMemory
  split <;> rfl

theorem setPeriod1_low (f : BitVec 11) : (setPeriod1 f s).io .nr13 = f.extractLsb' 0 8 :=
  (State.io_setIo_ne (s.setIo .nr13 _) (r := .nr14) _ (by decide)).trans (State.io_setIo_self s .nr13 _)

theorem setPeriod1_high (f : BitVec 11) :
    (setPeriod1 f s).io .nr14 = (s.io .nr14).extractLsb' 3 5 ++ f.extractLsb' 8 3 :=
  State.io_setIo_self _ _ _

/-- The registers hold the new period and keep the other bits of the high one. -/
theorem setPeriod1_numbers (f : BitVec 11) :
    ((setPeriod1 f s).io .nr14).toNat % 8 * 256 + ((setPeriod1 f s).io .nr13).toNat = f.toNat ∧
    ((setPeriod1 f s).io .nr14).toNat / 8 = (s.io .nr14).toNat / 8 := by
  have hf := f.isLt
  have hold := (s.io .nr14).isLt
  rw [setPeriod1_low, setPeriod1_high, toNat_append_eq, toNat_field, toNat_field, toNat_field]
  omega

theorem sweptMemory_period :
    ((s.withMem (sweptMemory s)).io .nr14).toNat % 8 * 256 + ((s.withMem (sweptMemory s)).io .nr13).toNat =
      (if SweepMoves s then newPeriod s else (s.io .nr14).toNat % 8 * 256 + (s.io .nr13).toNat) ∧
    ((s.withMem (sweptMemory s)).io .nr14).toNat / 8 = (s.io .nr14).toNat / 8 := by
  rw [sweptMemory_io, sweptMemory_io]
  split
  · next h =>
    obtain ⟨hperiod, hother⟩ := setPeriod1_numbers s (BitVec.ofNat 11 (newPeriod s))
    refine ⟨hperiod.trans ?_, hother⟩
    rw [BitVec.toNat_ofNat]
    omega
  · exact ⟨rfl, rfl⟩

/-! ## The envelope step -/

/-- The envelope step acts on the tick and has a period. -/
abbrev EnvelopeDue (r : IoReg) : Prop := s.audio.fs.toNat % 16384 = 0 ∧ (s.io r).toNat % 8 ≠ 0

/-- The envelope's counter expires. -/
abbrev EnvelopeExpires (r : IoReg) (e : Envelope) : Prop :=
  s.audio.fs.toNat % 16384 = 0 ∧ (s.io r).toNat % 8 ≠ 0 ∧ e.count ≤ 1

/-- The envelope decays to 0. -/
abbrev EnvelopeEnds (r : IoReg) (e : Envelope) : Prop :=
  EnvelopeExpires s r e ∧ (s.io r).getLsbD 3 = false ∧ e.vol.toNat = 1

/-- The envelope after the step. -/
def enveloped (r : IoReg) (e : Envelope) : Envelope where
  vol := if EnvelopeExpires s r e then volumeStep (bit (s.io r) 3) e.vol else e.vol
  count := if EnvelopeDue s r then (if e.count ≤ 1 then (s.io r).toNat % 8 else e.count - 1) else e.count

theorem envelopeTick_eq (r : IoReg) (e : Envelope) (h : s.audio.fs.toNat % 16384 = 0) :
    envelopeTick (s.io r) e = enveloped s r e := by
  unfold envelopeTick envPeriod envUp enveloped
  by_cases hperiod : (s.io r).toNat % 8 = 0 <;> by_cases hcount : e.count ≤ 1 <;>
    simp [EnvelopeExpires, EnvelopeDue, hperiod, hcount, h]

theorem envelopeDecays_eq (r : IoReg) (e : Envelope) (h : s.audio.fs.toNat % 16384 = 0) :
    envelopeDecays (s.io r) e = decide (EnvelopeEnds s r e) := by
  have hone : e.vol = 1 ↔ e.vol.toNat = 1 := ⟨fun h => by rw [h]; rfl, fun h => BitVec.eq_of_toNat_eq h⟩
  rw [envelopeDecays, envelopeFires, envPeriod, envUp, bit, Bool.eq_iff_iff]
  simp only [Bool.and_eq_true, decide_eq_true_eq, Bool.not_eq_true', hone, h, true_and, and_assoc]

theorem enveloped_idle (r : IoReg) (e : Envelope) (h : ¬s.audio.fs.toNat % 16384 = 0) : enveloped s r e = e := by
  simp [enveloped, EnvelopeExpires, EnvelopeDue, h]

theorem onDivisor_envelopeStep : onDivisor Config.frameSeqPeriod envelopeStep s = { s with audio := { s.audio with
    env1 := enveloped s .nr12 s.audio.env1
    ch1 := disableIf (decide (EnvelopeEnds s .nr12 s.audio.env1)) s.audio.ch1
    env2 := enveloped s .nr22 s.audio.env2
    ch2 := disableIf (decide (EnvelopeEnds s .nr22 s.audio.env2)) s.audio.ch2
    env4 := enveloped s .nr42 s.audio.env4
    ch4 := disableIf (decide (EnvelopeEnds s .nr42 s.audio.env4)) s.audio.ch4 } } := by
  by_cases h : s.audio.fs.toNat % 16384 = 0
  · simp only [← envelopeTick_eq s _ _ h, ← envelopeDecays_eq s _ _ h]
    exact if_pos h
  · have hends : ∀ r e, ¬EnvelopeEnds s r e := fun r e he => h he.1.1
    simp only [enveloped_idle s _ _ h, decide_eq_false (hends _ _), disableIf_false]
    exact if_neg h

theorem toNat_volumeStep : ∀ (up : Bool) (v : BitVec 4),
    (volumeStep up v).toNat = if up then min 15 (v.toNat + 1) else v.toNat - 1 := by decide

theorem toNat_enveloped_vol (r : IoReg) (e : Envelope) : (enveloped s r e).vol.toNat = if EnvelopeExpires s r e then
    (if (s.io r).getLsbD 3 then min 15 (e.vol.toNat + 1) else e.vol.toNat - 1) else e.vol.toNat := by
  unfold enveloped
  dsimp only
  split
  · exact toNat_volumeStep _ _
  · rfl

/-! ## The frame sequencer -/

theorem enveloped_congr {s u : State} {r : IoReg} (hio : u.io r = s.io r) (hfs : u.audio.fs = s.audio.fs) (e : Envelope) :
    enveloped u r e = enveloped s r e ∧ (EnvelopeEnds u r e ↔ EnvelopeEnds s r e) := by
  unfold enveloped EnvelopeEnds EnvelopeExpires EnvelopeDue
  rw [hio, hfs]
  exact ⟨rfl, Iff.rfl⟩

/-- The audio unit after the frame sequencer's tick. -/
def sequenced : Audio := { s.audio with
  fs := s.audio.fs + 1
  ch1 := disableIf (decide (EnvelopeEnds s .nr12 s.audio.env1))
    (disableIf (decide (SweepOverflows s)) (lengthDue s .nr14 s.audio.ch1))
  env1 := enveloped s .nr12 s.audio.env1
  sweep := swept s
  ch2 := disableIf (decide (EnvelopeEnds s .nr22 s.audio.env2)) (lengthDue s .nr24 s.audio.ch2)
  env2 := enveloped s .nr22 s.audio.env2
  ch3 := lengthDue s .nr34 s.audio.ch3
  ch4 := disableIf (decide (EnvelopeEnds s .nr42 s.audio.env4)) (lengthDue s .nr44 s.audio.ch4)
  env4 := enveloped s .nr42 s.audio.env4 }

/-- Each step reads what the steps before it leave alone. -/
theorem sequencerTick_eq : sequencerTick s = { s with mem := sweptMemory s, audio := sequenced s } := by
  let u : State := { s with audio := { s.audio with
    ch1 := lengthDue s .nr14 s.audio.ch1, ch2 := lengthDue s .nr24 s.audio.ch2
    ch3 := lengthDue s .nr34 s.audio.ch3, ch4 := lengthDue s .nr44 s.audio.ch4 } }
  let v : State := { u with
    mem := sweptMemory s
    audio := { u.audio with ch1 := disableIf (decide (SweepOverflows s)) u.audio.ch1, sweep := swept s } }
  have hlength : onDivisor s.cfg.lenDiv lengthStep s = u := onDivisor_lengthStep s
  have hsweep : onDivisor s.cfg.sweepDiv sweepStep u = v := onDivisor_sweepStep u
  have hio : ∀ r, r ≠ .nr13 → r ≠ .nr14 → v.io r = s.io r := fun r h3 h4 =>
    sweptMemory_cell s (fun e => h3 (ioKey_inj e)) (fun e => h4 (ioKey_inj e))
  have henv : ∀ r, r ≠ .nr13 → r ≠ .nr14 → ∀ e, enveloped v r e = enveloped s r e ∧ (EnvelopeEnds v r e ↔ EnvelopeEnds s r e) :=
    fun r h3 h4 => enveloped_congr (hio r h3 h4) rfl
  obtain ⟨h1, h1'⟩ := henv .nr12 (by decide) (by decide) s.audio.env1
  obtain ⟨h2, h2'⟩ := henv .nr22 (by decide) (by decide) s.audio.env2
  obtain ⟨h4, h4'⟩ := henv .nr42 (by decide) (by decide) s.audio.env4
  have henvelope := onDivisor_envelopeStep v
  unfold sequencerTick
  simp only [hlength, hsweep, henvelope]
  unfold sequenced
  rw [← h1, ← h2, ← h4, ← decide_eq_decide.2 h1', ← decide_eq_decide.2 h2', ← decide_eq_decide.2 h4']

/-! ## The ticks of the channels -/

theorem channelTick_kept (reload : BitVec 32) (adv : BitVec w → BitVec w) (ch : Channel w) :
    (channelTick reload adv ch).on = ch.on ∧ (channelTick reload adv ch).length = ch.length := by
  unfold channelTick
  split
  · split <;> exact ⟨rfl, rfl⟩
  · exact ⟨rfl, rfl⟩

theorem ticked_channelTick {old ch : Channel w} (htimer : ch.timer = old.timer) (hphase : ch.phase = old.phase) (n : Nat)
    (adv : BitVec w → BitVec w) : Ticked old (channelTick (BitVec.ofNat 32 n) adv ch) n (adv old.phase) := by
  unfold Ticked
  rw [(channelTick_kept _ _ _).1, ← htimer, ← hphase]
  unfold channelTick
  by_cases hon : ch.on = true <;> by_cases hend : ch.timer.toNat ≤ 1 <;> simp [hon, hend]

/-- The register shifted with a bit put in at the top. -/
theorem getLsbD_shifted (b : Bool) (v : BitVec 15) {i : Nat} (h : i < 15) :
    (BitVec.ofBool b ++ v.extractLsb' 1 14).getLsbD i = if i = 14 then b else v.getLsbD (i + 1) := by
  rw [BitVec.getLsbD_append, BitVec.getLsbD_extractLsb']
  by_cases hi : i = 14
  · subst hi
    cases b <;> rfl
  · simp [hi, show i < 14 by omega, Nat.add_comm 1 i]

/-- Bit 6 replaced. -/
theorem getLsbD_narrowed (b : Bool) (r : BitVec 15) {i : Nat} (h : i < 15) :
    (r.extractLsb' 7 8 ++ BitVec.ofBool b ++ r.extractLsb' 0 6).getLsbD i = if i = 6 then b else r.getLsbD i := by
  rw [BitVec.getLsbD_append, BitVec.getLsbD_append, BitVec.getLsbD_extractLsb', BitVec.getLsbD_extractLsb']
  rcases Nat.lt_trichotomy i 6 with hi | rfl | hi
  · simp [hi, hi.ne]
  · cases b <;> rfl
  · have hsum : 7 + (i - 6 - 1) = i := by omega
    simp [hi.ne', show ¬i < 6 by omega, show ¬i - 6 < 1 by omega, show i - 6 - 1 < 8 by omega, hsum]

/-- One step of the noise register bit by bit. -/
theorem getLsbD_lfsrStep (narrow : Bool) (v : BitVec 15) {i : Nat} (h : i < 15) : (lfsrStep narrow v).getLsbD i =
    if i = 14 ∨ (i = 6 ∧ narrow = true) then v.getLsbD 0 != v.getLsbD 1 else v.getLsbD (i + 1) := by
  cases narrow
  · exact (getLsbD_shifted _ v h).trans (if_congr (by simp) rfl rfl)
  · refine (getLsbD_narrowed _ _ h).trans ?_
    rw [getLsbD_shifted _ v h]
    by_cases h6 : i = 6 <;> by_cases h14 : i = 14 <;> simp [h6, h14]

/-- The ticks of the channels and the pairs leave memory alone, and of the audio unit all but the channels and the pairs. -/
theorem sampleTick_channelsTick (q : State) : let t := sampleTick (channelsTick q)
    t.mem = q.mem ∧ t.audio = { q.audio with
      ch1 := channelTick (pulseReload (periodOf1 q)) (· + 1) q.audio.ch1
      ch2 := channelTick (pulseReload (periodOf2 q)) (· + 1) q.audio.ch2
      ch3 := channelTick (waveReload (periodOf3 q)) (· + 1) q.audio.ch3
      ch4 := channelTick (noiseReload (q.io .nr43)) (lfsrStep (bit (q.io .nr43) 3)) q.audio.ch4
      pairs := t.audio.pairs } := ⟨rfl, rfl⟩

/-- The audio unit after a step: the frame sequencer's, with the channels ticked at the periods of the registers after it. -/
theorem audioStep_eq : let t := audioStep s
    t.mem = sweptMemory s ∧ t.audio = { sequenced s with
      ch1 := channelTick (pulseReload (periodOf1 t)) (· + 1) (sequenced s).ch1
      ch2 := channelTick (pulseReload (periodOf2 t)) (· + 1) (sequenced s).ch2
      ch3 := channelTick (waveReload (periodOf3 t)) (· + 1) (sequenced s).ch3
      ch4 := channelTick (noiseReload (t.io .nr43)) (lfsrStep (bit (t.io .nr43) 3)) (sequenced s).ch4
      pairs := t.audio.pairs } := by
  intro t
  let q : State := { s with mem := sweptMemory s, audio := sequenced s }
  have ht : t = sampleTick (channelsTick q) := congrArg (fun u => sampleTick (channelsTick u)) (sequencerTick_eq s)
  obtain ⟨hmem, haudio⟩ := sampleTick_channelsTick q
  have hio : ∀ r, (sampleTick (channelsTick q)).io r = q.io r := fun r => congrArg (Memory.get · (ioKey r)) hmem
  rw [ht]
  simp only [periodOf1, periodOf2, periodOf3, hio]
  exact ⟨hmem, haudio⟩

theorem audioStep_cell (k : Nat) : (audioStep s).cell k = (s.withMem (sweptMemory s)).cell k :=
  congrArg (Memory.get · k) (audioStep_eq s).1

theorem audioStep_io (r : IoReg) : (audioStep s).io r = (s.withMem (sweptMemory s)).io r := audioStep_cell s _

theorem audioStep_io_ne {r : IoReg} (h3 : r ≠ .nr13) (h4 : r ≠ .nr14) : (audioStep s).io r = s.io r :=
  (audioStep_io s r).trans (sweptMemory_cell s (fun e => h3 (ioKey_inj e)) fun e => h4 (ioKey_inj e))

/-- Settles O53: each field is that of `sequenced`, whose parts are the length, sweep and envelope steps, or of a channel's tick. -/
theorem channelSteps : Obligations.ChannelSteps := by
  intro s t at' limited len runsOut expires vol decays envCount nr10 sh nf sweepDue sweeps moves f nr43 lfsr
  obtain ⟨-, haudio⟩ := audioStep_eq s
  have h1 := congrArg Audio.ch1 haudio
  have h2 := congrArg Audio.ch2 haudio
  have h3 := congrArg Audio.ch3 haudio
  have h4 := congrArg Audio.ch4 haudio
  have hsweep : t.audio.sweep = swept s := congrArg Audio.sweep haudio
  have henv1 : t.audio.env1 = enveloped s .nr12 s.audio.env1 := congrArg Audio.env1 haudio
  have henv2 : t.audio.env2 = enveloped s .nr22 s.audio.env2 := congrArg Audio.env2 haudio
  have henv4 : t.audio.env4 = enveloped s .nr42 s.audio.env4 := congrArg Audio.env4 haudio
  obtain ⟨hperiod, hother⟩ := sweptMemory_period s
  have hnr43 : t.io .nr43 = s.io .nr43 := audioStep_io_ne s (by decide) (by decide)
  have hreload1 : pulseReload (periodOf1 t) = BitVec.ofNat 32 ((2048 - f t .nr13 .nr14) * 4) := by
    rw [pulseReload, periodOf1, toNat_periodValue]
  have hreload2 : pulseReload (periodOf2 t) = BitVec.ofNat 32 ((2048 - f t .nr23 .nr24) * 4) := by
    rw [pulseReload, periodOf2, toNat_periodValue]
  have hreload3 : waveReload (periodOf3 t) = BitVec.ofNat 32 ((2048 - f t .nr33 .nr34) * 2) := by
    rw [waveReload, periodOf3, toNat_periodValue]
  refine ⟨?_, ?_, ?_, ?_, ?_, ?_, ?_, ?_, ?_, ?_, ?_, ?_, ?_, ?_, ?_, ?_, ?_, ?_, fun k hk13 hk14 => ?_, ?_, ?_, ?_, ?_,
    congrArg (·.fs) haudio, congrArg (·.master) haudio, congrArg (·.out) haudio⟩
  · rw [h1, (channelTick_kept _ _ _).2]
    exact lengthDue_length s .nr14 s.audio.ch1
  · rw [h2, (channelTick_kept _ _ _).2]
    exact lengthDue_length s .nr24 s.audio.ch2
  · rw [h3, (channelTick_kept _ _ _).2]
    exact lengthDue_length s .nr34 s.audio.ch3
  · rw [h4, (channelTick_kept _ _ _).2]
    exact lengthDue_length s .nr44 s.audio.ch4
  · rw [henv1]
    exact toNat_enveloped_vol s .nr12 _
  · rw [henv2]
    exact toNat_enveloped_vol s .nr22 _
  · rw [henv4]
    exact toNat_enveloped_vol s .nr42 _
  · rw [h1, (channelTick_kept _ _ _).1]
    refine (disableIf_on _ _).trans ((and_congr_left' ((disableIf_on _ _).trans (and_congr_left' (lengthDue_on _ _ _)))).trans ?_)
    rw [and_assoc, and_assoc]
    rfl
  · rw [h2, (channelTick_kept _ _ _).1]
    exact (disableIf_on _ _).trans ((and_congr_left' (lengthDue_on _ _ _)).trans and_assoc)
  · rw [h3, (channelTick_kept _ _ _).1]
    exact lengthDue_on s .nr34 s.audio.ch3
  · rw [h4, (channelTick_kept _ _ _).1]
    exact (disableIf_on _ _).trans ((and_congr_left' (lengthDue_on _ _ _)).trans and_assoc)
  · rw [henv1]
    rfl
  · rw [henv2]
    rfl
  · rw [henv4]
    rfl
  · rw [hsweep]
    rfl
  · rw [hsweep]
    exact toNat_swept_shadow s
  · simp only [f, t, audioStep_io]
    exact hperiod
  · rw [audioStep_io]
    exact hother
  · exact (audioStep_cell s k).trans (sweptMemory_cell s hk13 hk14)
  · rw [h1, hreload1]
    obtain ⟨htimer, hphase⟩ := lengthDue_counter s .nr14 s.audio.ch1
    exact ticked_channelTick (ch := (sequenced s).ch1) htimer hphase _ (· + 1)
  · rw [h2, hreload2]
    obtain ⟨htimer, hphase⟩ := lengthDue_counter s .nr24 s.audio.ch2
    exact ticked_channelTick (ch := (sequenced s).ch2) htimer hphase _ (· + 1)
  · rw [h3, hreload3]
    obtain ⟨htimer, hphase⟩ := lengthDue_counter s .nr34 s.audio.ch3
    exact ticked_channelTick (ch := (sequenced s).ch3) htimer hphase _ (· + 1)
  · refine ⟨lfsrStep (bit (s.io .nr43) 3) lfsr, fun i hi => getLsbD_lfsrStep _ _ hi, ?_⟩
    rw [h4, hnr43]
    obtain ⟨htimer, hphase⟩ := lengthDue_counter s .nr44 s.audio.ch4
    exact ticked_channelTick (ch := (sequenced s).ch4) htimer hphase _ (lfsrStep (bit (s.io .nr43) 3))

end Sys2Proof.Machine
end

section
/-! The state after construction (10_state.md rule R44): what the reset table leaves of each cell, and what loading an image leaves
of a memory. -/

namespace Sys2Proof.Machine

/-! ## The reset table on memory -/

theorem Memory.get_cons (c : Host.Cell) (m : Memory) (k : Nat) :
    Memory.get (c :: m) k = if c.1 = k then c.2 else m.get k := rfl

/-- A key that is not listed reads as 0. -/
theorem Memory.get_of_unlisted {m : Memory} {k : Nat} (h : ∀ c ∈ m, c.1 ≠ k) : m.get k = 0 := by
  induction m with
  | nil => rfl
  | cons c m ih =>
    rw [List.forall_mem_cons] at h
    rw [Memory.get_cons, if_neg h.1]
    exact ih h.2

/-- The first cell of a memory is kept with the launch's bits, or left out where those are 0. -/
theorem resetMemory_cons (c : Host.Cell) (m : Memory) :
    resetMemory (c :: m) = (c.1, c.2 &&& launchBits c.1) :: resetMemory m ∨
    (c.2 &&& launchBits c.1 = 0 ∧ launchBits c.1 ≠ 0xFF ∧ resetMemory (c :: m) = resetMemory m) := by
  unfold resetMemory
  cases hc : resetCell c with
  | some d =>
    obtain ⟨hkey, hbits, -⟩ := resetCell_some hc
    exact .inl (by rw [List.filterMap_cons_some hc, ← hkey, hkey, ← hbits, ← hkey])
  | none =>
    unfold resetCell at hc
    simp only at hc
    split at hc
    · cases hc
    · next hfull =>
      split at hc
      · next hzero =>
        refine .inr ⟨hzero, hfull, List.filterMap_cons_none ?_⟩
        exact (if_neg hfull).trans (if_pos hzero)
      · cases hc

/-- Whatever a memory lists, after the reset a cell holds bits of the launch alone. -/
theorem Memory.get_reset_masked (m : Memory) (k : Nat) : ∃ x : Byte, (resetMemory m).get k = x &&& launchBits k := by
  induction m with
  | nil => exact ⟨0, BitVec.zero_and.symm⟩
  | cons c m ih =>
    rcases resetMemory_cons c m with h | ⟨-, -, h⟩ <;> rw [h]
    · rw [Memory.get_cons]
      split
      · next hk => exact ⟨c.2, by rw [← hk]⟩
      · exact ih
    · exact ih

/-- A cell the table says nothing of is the launch's. -/
theorem Memory.get_reset_kept (m : Memory) {k : Nat} (hk : launchBits k = 0xFF) : (resetMemory m).get k = m.get k := by
  induction m with
  | nil => rfl
  | cons c m ih =>
    rw [Memory.get_cons c m]
    rcases resetMemory_cons c m with h | ⟨-, hfull, h⟩ <;> rw [h]
    · rw [Memory.get_cons, ih]
      refine if_ctx_congr Iff.rfl (fun hc => ?_) fun _ => rfl
      change c.2 &&& launchBits c.1 = c.2
      rw [show c.1 = k from hc, hk, show (0xFF : Byte) = BitVec.allOnes 8 from rfl, BitVec.and_allOnes]
    · rw [if_neg fun (hc : c.1 = k) => hfull (by rw [hc]; exact hk), ih]

/-- In a canonical memory every cell keeps the launch's bits of it. -/
theorem Memory.get_reset {m : Memory} (h : m.wf) (k : Nat) : (resetMemory m).get k = m.get k &&& launchBits k := by
  induction m with
  | nil => exact BitVec.zero_and.symm
  | cons c m ih =>
    obtain ⟨hsorted, hlisted⟩ := h
    rw [List.pairwise_cons] at hsorted
    rw [List.forall_mem_cons] at hlisted
    have ih := ih ⟨hsorted.2, hlisted.2⟩
    rw [Memory.get_cons c m]
    rcases resetMemory_cons c m with h | ⟨hzero, -, h⟩ <;> rw [h]
    · rw [Memory.get_cons, ih]
      split
      · next hc => rw [← hc]
      · rfl
    · rw [ih]
      split
      · next hc =>
        rw [Memory.get_of_unlisted fun d hd => by have := hsorted.1 d hd; omega, ← hc, hzero]
        exact BitVec.zero_and
      · rfl

/-! ## The cells the table gives -/

theorem launchBits_kept {k : Nat} (h : k ∉ (IoReg.vbk :: .svbk :: resetRegs).map ioKey) : launchBits k = 0xFF := by
  simp only [List.map_cons, List.mem_cons, not_or] at h
  obtain ⟨hvbk, hsvbk, hrest⟩ := h
  unfold launchBits
  rw [if_neg (by simpa using hrest), if_neg hvbk, if_neg hsvbk]

variable (p : Params) (v : Init)

/-- A register the table gives is 0. -/
theorem resetWith_zero {r : IoReg} (h : launchBits (ioKey r) = 0) : (resetWith p v).io r = 0 := by
  obtain ⟨x, hx⟩ := Memory.get_reset_masked v.mem (ioKey r)
  rw [h] at hx
  exact hx.trans BitVec.and_zero

theorem vramBank_resetWith : vramBank (resetWith p v) = 0 := by
  obtain ⟨x, hx⟩ := Memory.get_reset_masked v.mem (ioKey .vbk)
  have heven : ∀ x : Byte, (x &&& 0xFE).toNat % 2 = 0 := by decide
  have hvbk : (resetWith p v).io .vbk = x &&& 0xFE := hx
  rw [vramBank, hvbk, heven, ite_self]

theorem wramBank_resetWith : wramBank (resetWith p v) = 1 := by
  obtain ⟨x, hx⟩ := Memory.get_reset_masked v.mem (ioKey .svbk)
  have hlow : ∀ x : Byte, (x &&& 0xF9).toNat % 8 = 0 ∨ (x &&& 0xF9).toNat % 8 = 1 := by decide
  have hsvbk : (resetWith p v).io .svbk = x &&& 0xF9 := hx
  rw [wramBank, hsvbk]
  rcases hlow x with h | h <;> rw [h]
  · simp
  · simp

theorem toByte_low_nibble : ∀ z n h c : Bool, (Flags.mk z n h c).toByte &&& 0x0F = 0 := by decide

/-! ## Images -/

theorem Memory.get_load_ne (key : Nat → Nat) (m : Memory) (i : Nat) (l : List Byte) {k : Nat}
    (h : ∀ j < l.length, k ≠ key (i + j)) : (m.load key i l).get k = m.get k := by
  induction l generalizing m i with
  | nil => rfl
  | cons v rest ih =>
    refine (ih (m.set (key i) v) (i + 1) fun j hj => ?_).trans (Memory.get_set_ne m v (h 0 (Nat.succ_pos _)))
    rw [Nat.add_right_comm]
    exact h (j + 1) (Nat.succ_lt_succ hj)

/-- Byte `j` of a loaded image stands at its key, if no later one has that key. -/
theorem Memory.get_load (key : Nat → Nat) (hinj : ∀ i j, key i = key j → i = j) (m : Memory) (i : Nat) (l : List Byte) {j : Nat}
    {v : Byte} (h : l[j]? = some v) : (m.load key i l).get (key (i + j)) = v := by
  induction l generalizing m i j with
  | nil => cases h
  | cons u rest ih =>
    cases j with
    | zero =>
      cases h
      refine (Memory.get_load_ne key (m.set (key i) v) (i + 1) rest fun j hj e => ?_).trans (Memory.get_set_self m (key i) v)
      have := hinj _ _ e
      omega
    | succ j =>
      have hrest := ih (m.set (key i) u) (i + 1) (j := j) h
      rwa [Nat.add_right_comm] at hrest

theorem bootKey_inj {i j : Nat} (h : bootKey i = bootKey j) : i = j := by
  unfold bootKey at h
  omega

/-- The key of byte `i` of a cartridge RAM image. -/
def cartRamImageKey (i : Nat) : Nat := cartRamKey (i / 8192) (0xA000 + i % 8192)

theorem cartRamImageKey_inj {i j : Nat} (h : cartRamImageKey i = cartRamImageKey j) : i = j := by
  simp only [cartRamImageKey, cartRamKey] at h
  omega

/-- Where the arrays of the images lie in their windows: no two share a key. -/
theorem image_windows (i : Nat) : (0x4000 ≤ romKey i % 0x10000 ∧ romKey i % 0x10000 < 0x8000) ∧
    (i < 2304 → bootKey i % 0x10000 < 0x4000) ∧
    (0xA000 ≤ cartRamImageKey i % 0x10000 ∧ cartRamImageKey i % 0x10000 < 0xC000) := by
  simp only [romKey, bootKey, cartRamImageKey, cartRamKey]
  omega

/-- The table says nothing of a cell outside the register block's window. -/
theorem launchBits_image {k : Nat} (h : k % 0x10000 < 0xFF00) : launchBits k = 0xFF := by
  refine launchBits_kept fun hmem => ?_
  obtain ⟨r, -, hr⟩ := List.mem_map.1 hmem
  obtain ⟨hlo, hhi⟩ := ioKey_range r
  omega

theorem bootOf_absent {b : Option (List Byte)} {x : BootRom} (h : bootOf b = .ok x) :
    (b = none ↔ x = .absent) ∧ (b.getD []).length ≤ 2304 := by
  unfold bootOf at h
  split at h
  · cases h
    exact ⟨iff_of_true rfl rfl, Nat.zero_le _⟩
  · next l =>
    split at h
    · next hl => cases h; exact ⟨iff_of_false nofun nofun, by simp [hl]⟩
    · split at h
      · next hl => cases h; exact ⟨iff_of_false nofun nofun, hl.le⟩
      · cases h

theorem launchMemory_eq (l : Launch) : launchMemory l = Memory.load cartRamImageKey
    (Memory.load bootKey (Memory.load romKey l.init.mem 0 l.rom) 0 (l.boot.getD [])) 0 l.cartRam := rfl

section
variable {l : Launch} (hboot : (l.boot.getD []).length ≤ 2304)
include hboot

theorem launchMemory_rom {i : Nat} {v : Byte} (h : l.rom[i]? = some v) : (launchMemory l).get (romKey i) = v := by
  obtain ⟨⟨hlo, hhi⟩, -, -⟩ := image_windows i
  rw [launchMemory_eq, Memory.get_load_ne _ _ _ _ fun j _ e => by have := (image_windows (0 + j)).2.2; omega,
    Memory.get_load_ne _ _ _ _ fun j hj e => by have := (image_windows (0 + j)).2.1 (by omega); omega]
  exact Nat.zero_add i ▸ Memory.get_load romKey (fun _ _ => romKey_inj) l.init.mem 0 l.rom h

theorem launchMemory_boot {i : Nat} {v : Byte} (h : (l.boot.getD [])[i]? = some v) :
    (launchMemory l).get (bootKey i) = v := by
  obtain ⟨hi, -⟩ := List.getElem?_eq_some_iff.1 h
  obtain ⟨-, hwindow, -⟩ := image_windows i
  have hwindow := hwindow (by omega)
  rw [launchMemory_eq, Memory.get_load_ne _ _ _ _ fun j _ e => by have := (image_windows (0 + j)).2.2; omega]
  exact Nat.zero_add i ▸ Memory.get_load bootKey (fun _ _ => bootKey_inj) _ 0 _ h

end

theorem launchMemory_cartRam (l : Launch) {i : Nat} {v : Byte} (h : l.cartRam[i]? = some v) :
    (launchMemory l).get (cartRamImageKey i) = v :=
  Nat.zero_add i ▸ Memory.get_load cartRamImageKey (fun _ _ => cartRamImageKey_inj) _ 0 _ h

theorem launchMemory_else (l : Launch) {k : Nat} (hrom : ∀ i < l.rom.length, k ≠ romKey i)
    (hboot : ∀ b ∈ l.boot, ∀ i < b.length, k ≠ bootKey i) (hram : ∀ i < l.cartRam.length, k ≠ cartRamImageKey i) :
    (launchMemory l).get k = l.init.mem.get k := by
  rw [launchMemory_eq, Memory.get_load_ne, Memory.get_load_ne, Memory.get_load_ne]
  · exact fun j hj => (Nat.zero_add j).symm ▸ hrom j hj
  · intro j hj
    rw [Nat.zero_add]
    cases hb : l.boot with
    | none => simp [hb] at hj
    | some b => exact hboot b hb j (by simpa [hb] using hj)
  · exact fun j hj => (Nat.zero_add j).symm ▸ hram j hj

/-! ## The statement -/

/-- A cell outside the register block is the launch's. -/
theorem resetWith_image {k : Nat} (h : k % 0x10000 < 0xFF00) : (resetWith p v).cell k = v.mem.get k :=
  Memory.get_reset_kept v.mem (launchBits_image h)

/-- Settles O56: the table on the registers, its bits on memory, and the images read back where they were loaded. -/
theorem resetValues : Obligations.ResetValues := by
  refine ⟨?_, ?_, rfl, by decide⟩
  · intro p v s
    have zero : ∀ r, launchBits (ioKey r) = 0 → s.io r = 0 := fun r => resetWith_zero p v
    have hif : peek s 0xFF0F = 0xE0 := by
      rw [peek_register (place_register .intf rfl nofun)]
      exact (by decide : (7 : BitVec 3) ++ (0 : BitVec 5) = 0xE0)
    have hmaster : nr52Bits s.audio = 0 := nr52Bits_eq s.audio
    refine ⟨
      -- the engine, the boot ROM, the interrupts
      rfl, rfl, rfl, rfl, rfl, rfl, rfl, toByte_low_nibble _ _ _ _, fun h => ⟨if_neg h, decide_eq_true h⟩,
      fun h => decide_eq_false (not_not.2 h), rfl, rfl, rfl, hif, rfl,
      -- the banks, the timer, the registers
      vramBank_resetWith p v, wramBank_resetWith p v, rfl, zero .tima (by decide), zero .tma (by decide),
      zero .tac (by decide), rfl, rfl, zero .lcdc (by decide), zero .stat (by decide), hmaster,
      -- joypad, sequencer, bank controller, video, channels
      rfl, rfl, rfl, rfl, rfl, rfl, rfl, rfl, rfl, rfl, rfl, rfl, rfl, rfl, rfl, rfl, rfl, rfl, rfl, rfl, rfl, rfl,
      rfl, rfl, rfl, rfl,
      -- what the launch gives
      rfl, rfl, rfl, rfl, rfl, rfl, rfl, rfl, rfl, fun h => if_pos h, rfl, rfl, rfl, rfl, rfl, rfl, rfl, rfl,
      rfl, rfl, rfl, rfl, rfl, rfl, rfl, rfl, fun h => ?_, fun k hk => Memory.get_reset_kept v.mem (launchBits_kept hk)⟩
    exact ⟨Memory.get_reset h _, Memory.get_reset h _⟩
  · intro l s h
    obtain ⟨mbc, nr, boot, hboot, rfl⟩ := construct_ok h
    obtain ⟨habsent, hsize⟩ := bootOf_absent hboot
    have image : ∀ {k : Nat} {x : Byte}, k % 0x10000 < 0xFF00 → (launchMemory l).get k = x →
        (resetWith (launchParams l mbc nr boot) { l.init with mem := launchMemory l }).cell k = x :=
      fun hk hx => (resetWith_image _ _ hk).trans hx
    refine ⟨rfl, rfl, fun hparams => ?_, habsent, fun i x hx => ?_, fun b hb i x hx => ?_, fun i x hx => ?_,
      fun k => launchMemory_else l⟩
    · change (l.params.getD (Params.defaultFor l.cgb)).wramBanks = _
      rw [hparams]
      rfl
    · exact image (by have := (image_windows i).1; omega) (launchMemory_rom hsize hx)
    · rw [Option.mem_def.1 hb] at hsize
      have hi := (List.getElem?_eq_some_iff.1 hx).1
      refine image (by have := (image_windows i).2.1 (hi.trans_le hsize); omega) (launchMemory_boot ?_ ?_)
      · rw [Option.mem_def.1 hb]; exact hsize
      · rw [Option.mem_def.1 hb]; exact hx
    · exact image (by have := (image_windows i).2.2; exact this.2.trans (by decide)) (launchMemory_cartRam l hx)

end Sys2Proof.Machine
end
